-- ==== Sys2Proof/Word.lean ====
section
/-! DEFINITION. The machine's data types: bytes, 16-bit words, register and key numbers (R9, R20, R30, R90). -/

namespace Sys2Proof

/-- An 8-bit unsigned value: a memory cell, a general register, a timer (R20, R27, R60). -/
abbrev Byte := BitVec 8

/-- A 16-bit unsigned value: an instruction, `I`, `pc`, a stack entry (R23, R24, R25, R90). -/
abbrev Word := BitVec 16

/-- A general register number `0..15`; every 4-bit value names a register (R20, R36, R93). -/
abbrev Reg := Fin 16

/-- A hex key `0..15` (R30, R36). -/
abbrev Key := Fin 16

/-- The row count `n` of `DXYN`, `0..15` (R91, R93). -/
abbrev RowCount := Fin 16

end Sys2Proof
end

