-- ==== Sys2Proof/Syntax.lean ====
section
/-! DEFINITION. The 34 instructions of spec/opcode_table.json, one constructor per row (R2, R92, R96). -/

namespace Sys2Proof

/-- One instruction, with its operand fields (R91, R93). -/
inductive Instr where
  /-- `00E0` `CLS`: clear the screen (R200). -/
  | cls
  /-- `00EE` `RET`: return from subroutine (R130). -/
  | ret
  /-- `1NNN` `JP nnn`: jump (R131). -/
  | jp (nnn : BitVec 12)
  /-- `2NNN` `CALL nnn`: call subroutine (R132). -/
  | call (nnn : BitVec 12)
  /-- `3XNN` `SE Vx, nn`: skip if equal to immediate (R133). -/
  | seImm (x : Reg) (nn : Byte)
  /-- `4XNN` `SNE Vx, nn`: skip if not equal to immediate (R134). -/
  | sneImm (x : Reg) (nn : Byte)
  /-- `5XY0` `SE Vx, Vy`: skip if registers equal (R135). -/
  | seReg (x y : Reg)
  /-- `6XNN` `LD Vx, nn`: load immediate (R151). -/
  | ldImm (x : Reg) (nn : Byte)
  /-- `7XNN` `ADD Vx, nn`: add immediate (R152). -/
  | addImm (x : Reg) (nn : Byte)
  /-- `8XY0` `LD Vx, Vy`: copy (R153). -/
  | ldReg (x y : Reg)
  /-- `8XY1` `OR Vx, Vy`: bitwise OR (R154). -/
  | orReg (x y : Reg)
  /-- `8XY2` `AND Vx, Vy`: bitwise AND (R155). -/
  | andReg (x y : Reg)
  /-- `8XY3` `XOR Vx, Vy`: bitwise XOR (R156). -/
  | xorReg (x y : Reg)
  /-- `8XY4` `ADD Vx, Vy`: add with carry (R157). -/
  | addReg (x y : Reg)
  /-- `8XY5` `SUB Vx, Vy`: subtract with borrow (R158). -/
  | subReg (x y : Reg)
  /-- `8XY6` `SHR Vx`: shift right (R159); `y` is ignored (R94). -/
  | shr (x y : Reg)
  /-- `8XY7` `SUBN Vx, Vy`: reverse subtract (R160). -/
  | subn (x y : Reg)
  /-- `8XYE` `SHL Vx`: shift left (R161); `y` is ignored (R94). -/
  | shl (x y : Reg)
  /-- `9XY0` `SNE Vx, Vy`: skip if registers differ (R136). -/
  | sneReg (x y : Reg)
  /-- `ANNN` `LD I, nnn`: load address (R180). -/
  | ldI (nnn : BitVec 12)
  /-- `BNNN` `JP V0, nnn`: jump with offset (R137). -/
  | jpV0 (nnn : BitVec 12)
  /-- `CXNN` `RND Vx, nn`: random AND mask (R162). -/
  | rnd (x : Reg) (nn : Byte)
  /-- `DXYN` `DRW Vx, Vy, n`: draw sprite (R201). -/
  | drw (x y : Reg) (n : RowCount)
  /-- `EX9E` `SKP Vx`: skip if key pressed (R221). -/
  | skp (x : Reg)
  /-- `EXA1` `SKNP Vx`: skip if key not pressed (R222). -/
  | sknp (x : Reg)
  /-- `FX07` `LD Vx, DT`: read delay timer (R223). -/
  | ldVxDT (x : Reg)
  /-- `FX0A` `LD Vx, K`: wait for key (R224). -/
  | ldVxK (x : Reg)
  /-- `FX15` `LD DT, Vx`: set delay timer (R225). -/
  | ldDTVx (x : Reg)
  /-- `FX18` `LD ST, Vx`: set sound timer (R226). -/
  | ldSTVx (x : Reg)
  /-- `FX1E` `ADD I, Vx`: add to address (R181). -/
  | addIVx (x : Reg)
  /-- `FX29` `LD F, Vx`: font glyph address (R182). -/
  | ldFVx (x : Reg)
  /-- `FX33` `LD B, Vx`: store BCD (R183). -/
  | ldBVx (x : Reg)
  /-- `FX55` `LD [I], Vx`: store registers (R184). -/
  | ldMemVx (x : Reg)
  /-- `FX65` `LD Vx, [I]`: load registers (R185). -/
  | ldVxMem (x : Reg)
  deriving DecidableEq, Repr

end Sys2Proof
end

