-- ==== Sys2Proof/Decode.lean ====
section
/-! DEFINITION. The decoder (R91, R95 to R98), the encoder (R92, R93) and the opcode table's rows of fixed bits. -/

namespace Sys2Proof

/-- Why bytes are not an instruction. -/
inductive DecodeError where
  /-- Fewer than the two bytes every instruction has (R90). -/
  | truncated
  /-- The word is none of the 34 instructions (R96, R97). -/
  | unknownOpcode (w : Word)
  deriving DecidableEq, Repr

/-! ### The fields of an instruction word (R91) -/

/-- `n3 = ins[15:12]`, the family. -/
def fieldOp (w : Word) : BitVec 4 := w.extractLsb' 12 4

/-- `X = ins[11:8]`. -/
def fieldX (w : Word) : Reg := (w.extractLsb' 8 4).toFin

/-- `Y = ins[7:4]`. -/
def fieldY (w : Word) : Reg := (w.extractLsb' 4 4).toFin

/-- `N = ins[3:0]` as the sub-opcode `n0`. -/
def fieldSub (w : Word) : BitVec 4 := w.extractLsb' 0 4

/-- `N = ins[3:0]` as the row count of `DXYN`. -/
def fieldN (w : Word) : RowCount := (w.extractLsb' 0 4).toFin

/-- `NN = ins[7:0]`. -/
def fieldNN (w : Word) : Byte := w.extractLsb' 0 8

/-- `NNN = ins[11:0]`. -/
def fieldNNN (w : Word) : BitVec 12 := w.extractLsb' 0 12

/-! ### The opcode map (R95, R96) -/

/-- Family 0: the whole word decides (R96). -/
def decodeFamily0 (w : Word) : Except DecodeError Instr :=
  if fieldNNN w = 0x0E0#12 then .ok .cls
  else if fieldNNN w = 0x0EE#12 then .ok .ret
  else .error (.unknownOpcode w)

/-- Family 8: `n0` decides (R96). -/
def decodeFamily8 (w : Word) : Except DecodeError Instr :=
  match fieldSub w with
  | 0x0#4 => .ok (.ldReg (fieldX w) (fieldY w))
  | 0x1#4 => .ok (.orReg (fieldX w) (fieldY w))
  | 0x2#4 => .ok (.andReg (fieldX w) (fieldY w))
  | 0x3#4 => .ok (.xorReg (fieldX w) (fieldY w))
  | 0x4#4 => .ok (.addReg (fieldX w) (fieldY w))
  | 0x5#4 => .ok (.subReg (fieldX w) (fieldY w))
  | 0x6#4 => .ok (.shr (fieldX w) (fieldY w))
  | 0x7#4 => .ok (.subn (fieldX w) (fieldY w))
  | 0xE#4 => .ok (.shl (fieldX w) (fieldY w))
  | _ => .error (.unknownOpcode w)

/-- Family E: `NN` decides (R96). -/
def decodeFamilyE (w : Word) : Except DecodeError Instr :=
  match fieldNN w with
  | 0x9E#8 => .ok (.skp (fieldX w))
  | 0xA1#8 => .ok (.sknp (fieldX w))
  | _ => .error (.unknownOpcode w)

/-- Family F: `NN` decides (R96). -/
def decodeFamilyF (w : Word) : Except DecodeError Instr :=
  match fieldNN w with
  | 0x07#8 => .ok (.ldVxDT (fieldX w))
  | 0x0A#8 => .ok (.ldVxK (fieldX w))
  | 0x15#8 => .ok (.ldDTVx (fieldX w))
  | 0x18#8 => .ok (.ldSTVx (fieldX w))
  | 0x1E#8 => .ok (.addIVx (fieldX w))
  | 0x29#8 => .ok (.ldFVx (fieldX w))
  | 0x33#8 => .ok (.ldBVx (fieldX w))
  | 0x55#8 => .ok (.ldMemVx (fieldX w))
  | 0x65#8 => .ok (.ldVxMem (fieldX w))
  | _ => .error (.unknownOpcode w)

/-- The decoder: a switch on the family, then on the sub-opcode where the family has one (R95, R96). Every word is an
instruction or is rejected as unknown (R97). -/
def decode (w : Word) : Except DecodeError Instr :=
  match fieldOp w with
  | 0x0#4 => decodeFamily0 w
  | 0x1#4 => .ok (.jp (fieldNNN w))
  | 0x2#4 => .ok (.call (fieldNNN w))
  | 0x3#4 => .ok (.seImm (fieldX w) (fieldNN w))
  | 0x4#4 => .ok (.sneImm (fieldX w) (fieldNN w))
  | 0x5#4 => if fieldSub w = 0x0#4 then .ok (.seReg (fieldX w) (fieldY w)) else .error (.unknownOpcode w)
  | 0x6#4 => .ok (.ldImm (fieldX w) (fieldNN w))
  | 0x7#4 => .ok (.addImm (fieldX w) (fieldNN w))
  | 0x8#4 => decodeFamily8 w
  | 0x9#4 => if fieldSub w = 0x0#4 then .ok (.sneReg (fieldX w) (fieldY w)) else .error (.unknownOpcode w)
  | 0xA#4 => .ok (.ldI (fieldNNN w))
  | 0xB#4 => .ok (.jpV0 (fieldNNN w))
  | 0xC#4 => .ok (.rnd (fieldX w) (fieldNN w))
  | 0xD#4 => .ok (.drw (fieldX w) (fieldY w) (fieldN w))
  | 0xE#4 => decodeFamilyE w
  | _ => decodeFamilyF w  -- 0xF, the one family left

/-- The word of two bytes in memory order: the byte at the lower address is the high byte (R67, R68). -/
def wordOfBytes (hi lo : Byte) : Word := hi ++ lo

/-- The byte of a word that stands at the lower address (R67, R68). -/
def highByte (w : Word) : Byte := w.extractLsb' 8 8

/-- The byte of a word that stands at the higher address (R67, R68). -/
def lowByte (w : Word) : Byte := w.extractLsb' 0 8

/-- The decoder on any bytes: the instruction of the first two, and the rest. -/
def decodeBytes (bytes : List Byte) : Except DecodeError (Instr × List Byte) :=
  match bytes with
  | hi :: lo :: rest => (decode (wordOfBytes hi lo)).map (fun i => (i, rest))
  | _ => .error .truncated

/-! ### The encoder, by the formats of R92 -/

/-- Format `ADDR`: `oooo nnnn nnnn nnnn`. -/
def addrWord (op : BitVec 4) (nnn : BitVec 12) : Word := op ++ nnn

/-- Format `REG_IMM`: `oooo xxxx kkkk kkkk`; also `REG_SUB`: `oooo xxxx ssss ssss`. -/
def regImmWord (op : BitVec 4) (x : Reg) (nn : Byte) : Word := op ++ (BitVec.ofFin x : BitVec 4) ++ nn

/-- Format `REG_REG`: `oooo xxxx yyyy ssss`; also `DRAW`: `1101 xxxx yyyy nnnn`. -/
def regRegWord (op : BitVec 4) (x y : Reg) (sub : BitVec 4) : Word :=
  op ++ (BitVec.ofFin x : BitVec 4) ++ (BitVec.ofFin y : BitVec 4) ++ sub

/-- The word that encodes an instruction (R92, R96, opcode_table.json). -/
def encode (i : Instr) : Word :=
  match i with
  | .cls => 0x00E0#16
  | .ret => 0x00EE#16
  | .jp nnn => addrWord 0x1 nnn
  | .call nnn => addrWord 0x2 nnn
  | .seImm x nn => regImmWord 0x3 x nn
  | .sneImm x nn => regImmWord 0x4 x nn
  | .seReg x y => regRegWord 0x5 x y 0x0
  | .ldImm x nn => regImmWord 0x6 x nn
  | .addImm x nn => regImmWord 0x7 x nn
  | .ldReg x y => regRegWord 0x8 x y 0x0
  | .orReg x y => regRegWord 0x8 x y 0x1
  | .andReg x y => regRegWord 0x8 x y 0x2
  | .xorReg x y => regRegWord 0x8 x y 0x3
  | .addReg x y => regRegWord 0x8 x y 0x4
  | .subReg x y => regRegWord 0x8 x y 0x5
  | .shr x y => regRegWord 0x8 x y 0x6
  | .subn x y => regRegWord 0x8 x y 0x7
  | .shl x y => regRegWord 0x8 x y 0xE
  | .sneReg x y => regRegWord 0x9 x y 0x0
  | .ldI nnn => addrWord 0xA nnn
  | .jpV0 nnn => addrWord 0xB nnn
  | .rnd x nn => regImmWord 0xC x nn
  | .drw x y n => regRegWord 0xD x y (BitVec.ofFin n)
  | .skp x => regImmWord 0xE x 0x9E
  | .sknp x => regImmWord 0xE x 0xA1
  | .ldVxDT x => regImmWord 0xF x 0x07
  | .ldVxK x => regImmWord 0xF x 0x0A
  | .ldDTVx x => regImmWord 0xF x 0x15
  | .ldSTVx x => regImmWord 0xF x 0x18
  | .addIVx x => regImmWord 0xF x 0x1E
  | .ldFVx x => regImmWord 0xF x 0x29
  | .ldBVx x => regImmWord 0xF x 0x33
  | .ldMemVx x => regImmWord 0xF x 0x55
  | .ldVxMem x => regImmWord 0xF x 0x65

/-- The bytes that encode an instruction, in memory order (R67). -/
def encodeBytes (i : Instr) : List Byte := [highByte (encode i), lowByte (encode i)]

/-! ### The fixed bits of the opcode table, written from its "mask" and "match" columns and not from the decoder -/

/-- The `(mask, match)` pair of an instruction's row of opcode_table.json: a word belongs to the row when the word ANDed
with the mask is the match. -/
def opcodeRow (i : Instr) : Word × Word :=
  match i with
  | .cls => (0xFFFF, 0x00E0)
  | .ret => (0xFFFF, 0x00EE)
  | .jp _ => (0xF000, 0x1000)
  | .call _ => (0xF000, 0x2000)
  | .seImm _ _ => (0xF000, 0x3000)
  | .sneImm _ _ => (0xF000, 0x4000)
  | .seReg _ _ => (0xF00F, 0x5000)
  | .ldImm _ _ => (0xF000, 0x6000)
  | .addImm _ _ => (0xF000, 0x7000)
  | .ldReg _ _ => (0xF00F, 0x8000)
  | .orReg _ _ => (0xF00F, 0x8001)
  | .andReg _ _ => (0xF00F, 0x8002)
  | .xorReg _ _ => (0xF00F, 0x8003)
  | .addReg _ _ => (0xF00F, 0x8004)
  | .subReg _ _ => (0xF00F, 0x8005)
  | .shr _ _ => (0xF00F, 0x8006)
  | .subn _ _ => (0xF00F, 0x8007)
  | .shl _ _ => (0xF00F, 0x800E)
  | .sneReg _ _ => (0xF00F, 0x9000)
  | .ldI _ => (0xF000, 0xA000)
  | .jpV0 _ => (0xF000, 0xB000)
  | .rnd _ _ => (0xF000, 0xC000)
  | .drw _ _ _ => (0xF000, 0xD000)
  | .skp _ => (0xF0FF, 0xE09E)
  | .sknp _ => (0xF0FF, 0xE0A1)
  | .ldVxDT _ => (0xF0FF, 0xF007)
  | .ldVxK _ => (0xF0FF, 0xF00A)
  | .ldDTVx _ => (0xF0FF, 0xF015)
  | .ldSTVx _ => (0xF0FF, 0xF018)
  | .addIVx _ => (0xF0FF, 0xF01E)
  | .ldFVx _ => (0xF0FF, 0xF029)
  | .ldBVx _ => (0xF0FF, 0xF033)
  | .ldMemVx _ => (0xF0FF, 0xF055)
  | .ldVxMem _ => (0xF0FF, 0xF065)

/-- Does a word have the fixed bits of a row? -/
def matchesRow (row : Word × Word) (w : Word) : Bool := w &&& row.1 == row.2

/-- One instruction of each row, in the table's order; its operands do not matter to `opcodeRow`. -/
def rowSamples : List Instr :=
  List.flatten
    [[.cls, .ret, .jp 0, .call 0, .seImm 0 0, .sneImm 0 0, .seReg 0 0, .ldImm 0 0, .addImm 0 0],
     [.ldReg 0 0, .orReg 0 0, .andReg 0 0, .xorReg 0 0, .addReg 0 0, .subReg 0 0, .shr 0 0, .subn 0 0, .shl 0 0],
     [.sneReg 0 0, .ldI 0, .jpV0 0, .rnd 0 0, .drw 0 0 0, .skp 0, .sknp 0],
     [.ldVxDT 0, .ldVxK 0, .ldDTVx 0, .ldSTVx 0, .addIVx 0, .ldFVx 0, .ldBVx 0, .ldMemVx 0, .ldVxMem 0]]

/-- The 34 rows of the opcode table (R2, R97). -/
def opcodeRows : List (Word × Word) := rowSamples.map opcodeRow

/-! ### The host's numbering of an instruction's bits -/

/-- The instruction the decoder reads from an instruction whose bits are `w`, of which the table gives `nbits`; the bits
above `nbits` are 0. The word is laid out big-endian, as memory holds it (R67), and given to `decodeBytes`. -/
def decodeTableWord (nbits w : Nat) : Option Instr :=
  let word : Word := BitVec.ofNat 16 (w % 2 ^ nbits)
  match decodeBytes [highByte word, lowByte word] with
  | .ok (i, _) => some i
  | .error _ => none

end Sys2Proof
end

