-- ==== Sys2Proof/Config.lean ====
section
/-! DEFINITION. The parameters a model takes (R8), their defaults, the constants the source fixes, and the free value of
`CXNN`'s random draw (R162, R275). -/

namespace Sys2Proof

/-- The implementation parameters of R8. They are fixed for a machine; no step changes them. -/
structure Config where
  /-- `MEM_SIZE`, the number of bytes of memory (R60, D1). -/
  memSize    : Nat
  /-- `STACK_DEPTH`, the capacity of the call stack (R25, D6). -/
  stackDepth : Nat
  /-- `BATCH_SIZE`, the most instructions one tick runs (R252, D17). -/
  batchSize  : Nat
  /-- `FONT`, the 80 bytes at `0x000..0x04F` (R66, D20). -/
  font       : List Byte
  /-- `FRAME_HZ`, the nominal tick rate, which affects no rule (R257, D39). -/
  frameHz    : Nat
  deriving DecidableEq, Repr

/-- The default font (table of R66): glyph `d` is the five bytes from index `5*d`.
The bytes are the spec's general knowledge, so a claim that reads them must name them (log 3). -/
def defaultFont : List Byte :=
  [0xF0, 0x90, 0x90, 0x90, 0xF0] ++ [0x20, 0x60, 0x20, 0x20, 0x70] ++
  [0xF0, 0x10, 0xF0, 0x80, 0xF0] ++ [0xF0, 0x10, 0xF0, 0x10, 0xF0] ++
  [0x90, 0x90, 0xF0, 0x10, 0x10] ++ [0xF0, 0x80, 0xF0, 0x10, 0xF0] ++
  [0xF0, 0x80, 0xF0, 0x90, 0xF0] ++ [0xF0, 0x10, 0x20, 0x40, 0x40] ++
  [0xF0, 0x90, 0xF0, 0x90, 0xF0] ++ [0xF0, 0x90, 0xF0, 0x10, 0xF0] ++
  [0xF0, 0x90, 0xF0, 0x90, 0x90] ++ [0xE0, 0x90, 0xE0, 0x90, 0xE0] ++
  [0xF0, 0x80, 0x80, 0x80, 0xF0] ++ [0xE0, 0x90, 0x90, 0x90, 0xE0] ++
  [0xF0, 0x80, 0xF0, 0x80, 0xF0] ++ [0xF0, 0x80, 0xF0, 0x80, 0x80]

/-- The default of every parameter (R8). -/
def Config.default : Config :=
  { memSize := 4096, stackDepth := 16, batchSize := 100, font := defaultFont, frameHz := 60 }

/-- The byte the host's random source answers to the draw numbered `k` (R275, D21). A FREE VALUE: it has no body, so
nothing can be proved of it and every claim holds for every sequence of draws (log 8). -/
opaque Config.randomByte : Nat → Byte

/-- The address of the ROM's first byte and of the first instruction (R65, R290, R291). -/
def programOrigin : Nat := 0x200

/-- The number of bytes of the font, 16 glyphs of 5 bytes (R8, R65). -/
def fontLength : Nat := 80

/-- The number of columns of the display (R29). -/
def displayWidth : Nat := 64

/-- The number of rows of the display (R29). -/
def displayHeight : Nat := 32

end Sys2Proof
end

