-- ==== Sys2Proof/Machine/State.lean ====
section
/-! DEFINITION. The machine's state as plain data (10_state.md), the fault record (R240, R241), the host's ports as data
(R270), the reasons a step can stop, and the state after construction (R40, R290). -/

namespace Sys2Proof.Machine

/-- The fault codes 1 to 8 of R240, in the table's order. -/
inductive FaultCode where
  /-- 1: the word is none of the 34 instructions. -/
  | unknownOpcode
  /-- 2: a register above 255; unreachable, since registers have 8 bits (R116, D30). -/
  | registerOutOfRange
  /-- 3: `2NNN` with `STACK_DEPTH` entries on the stack. -/
  | stackOverflow
  /-- 4: `00EE` with an empty stack. -/
  | stackUnderflow
  /-- 5: a data address at or above `MEM_SIZE`. -/
  | memoryOutOfBounds
  /-- 6: a fetch at `MEM_SIZE − 1`. -/
  | fetchOutOfBounds
  /-- 7: `EX9E` or `EXA1` with `V[x] > 15`. -/
  | keyIndexOutOfRange
  /-- 8: a ROM that does not fit, raised by the loader only. -/
  | romTooLarge
  deriving DecidableEq, Repr

/-- The fault record `(code, ins, pc, info)` of R241, D24. -/
structure FaultRecord where
  /-- The fault code. -/
  code : FaultCode
  /-- The instruction word, 0 where none was fetched. -/
  ins  : Word
  /-- The address of the faulting instruction. -/
  pc   : Word
  /-- The offending value of R240's table, an unbounded number. -/
  info : Nat
  deriving DecidableEq, Repr

/-- The core's run state (R32). -/
inductive RunState where
  /-- Constructed, no ROM loaded (R290). -/
  | unloaded
  /-- The ROM did not fit (R292). -/
  | loadFailed (rec : FaultRecord)
  /-- Ticks execute instructions (R291). -/
  | running
  /-- `pc` left memory; ticks execute no instruction (R111). -/
  | halted
  /-- A fatal error aborted the run (R241). -/
  | faulted (rec : FaultRecord)
  /-- The host quit (R259). -/
  | stopped
  deriving DecidableEq, Repr

/-- One host event of a tick's input poll (R258). -/
inductive HostEvent where
  /-- The hex key was pressed. -/
  | keyDown (k : Key)
  /-- The hex key was released. -/
  | keyUp (k : Key)
  /-- The host signals quit. -/
  | quit
  deriving DecidableEq, Repr

/-- One thing the core drives on an output port (R270 to R273, R276). -/
inductive Output where
  /-- `Surface.clear()` (R271). -/
  | clear
  /-- `Surface.setPixel(x, y, color)` (R272); `on` is the cell's new value. -/
  | setPixel (x y : Nat) (on : Bool)
  /-- `Surface.present()` (R273). -/
  | present
  /-- The `beep` output of a tick (R255, R276). -/
  | beep (on : Bool)
  deriving DecidableEq, Repr

/-- Memory as the list of the cells that differ from the reset contents, addresses rising (`Memory.wf` in Ops). -/
abbrev Memory := List Host.Cell

/-- The framebuffer: 32 rows, each of 64 one-bit cells; bit `x` of row `y` is `display[y][x]` (R29; log 14). -/
abbrev Display := Vector (BitVec 64) 32

/-- The whole state of the core (R35), the tick's transient state (R34), its parameters (R8) and the host's ports (R270). -/
structure State where
  /-- The parameters of R8; no step changes them (log 1). -/
  params      : Config
  /-- The general registers `V0..VF` (R20). -/
  v           : Vector Byte 16
  /-- The address register `I` (R23). -/
  i           : Word
  /-- The instruction pointer (R24). -/
  pc          : Word
  /-- The call stack, oldest entry first, the top last (R25). -/
  stack       : List Word
  /-- The delay timer `DT` (R27). -/
  dt          : Byte
  /-- The sound timer `ST` (R28). -/
  st          : Byte
  /-- The framebuffer (R29). -/
  display     : Display
  /-- The pressed flag of each key (R30). -/
  pressed     : Vector Bool 16
  /-- The last key that went from released to pressed, if `FX0A` has not consumed it (R31). -/
  latch       : Option Key
  /-- The run state, with the fault record where there is one (R32). -/
  run         : RunState
  /-- The host has signalled quit (R33). -/
  quitPending : Bool
  /-- Memory (R60). -/
  mem         : Memory
  /-- The batch counter of the present tick (R34, R250). -/
  count       : Nat
  /-- An `FX0A` of the present batch has suspended (R34, R224). -/
  suspend     : Bool
  /-- Port `rom`: the ROM the host offers and the core has not yet taken (R270; log 4). -/
  romPort     : Option (List Byte)
  /-- Port `events`: the event list of this tick and of each tick after it (R270; log 7). -/
  events      : List (List HostEvent)
  /-- Port `random`: how many bytes have been drawn (R275; log 8). -/
  draws       : Nat
  /-- The output ports: everything driven so far, oldest first (R270; log 9). -/
  out         : List Output
  deriving DecidableEq, Repr

/-- Why the machine has no next state. The fatal errors of R240 are NOT here: their entry is described (R241) and is a
next state whose `run` is `faulted`. -/
inductive Fault where
  /-- Raised by `step` alone, when the parameters are outside the ranges of R8, for which the spec describes no machine.
  Safe: the model stops (log 2). -/
  | parametersOutOfRange
  deriving DecidableEq, Repr

/-- Why the model gives no meaning. -/
inductive Refusal where
  /-- Raised by an arm of `exec` whose instruction has no meaning yet; no arm does. Safe: the model stops. -/
  | notModelled (mnemonic : String)
  /-- Raised by `step` alone, when the host offers a ROM to a core that already had its one load: D41 "A model refuses a
  second load or a load after a tick". Safe: the model stops (log 6). -/
  | romLoadRefused
  deriving DecidableEq, Repr

/-- The constructed core (R290) with the default parameters (R8): font in memory, everything else zero or empty (R40), and
`run = Unloaded`, since no ROM has been loaded. Memory lists nothing: an unlisted address reads as its reset contents. -/
def State.reset : State :=
  { params := Config.default
    v := Vector.replicate 16 0
    i := 0
    pc := 0x200
    stack := []
    dt := 0
    st := 0
    display := Vector.replicate 32 0
    pressed := Vector.replicate 16 false
    latch := none
    run := .unloaded
    quitPending := false
    mem := []
    count := 0
    suspend := false
    romPort := none
    events := []
    draws := 0
    out := [] }

end Sys2Proof.Machine
end

