-- ==== Sys2Proof/Machine/Ops.lean ====
section
/-! DEFINITION. The named operations over memory, the framebuffer, the stack and `pc`, and fault entry (20_memory.md,
40_execution_cycle.md, 60_exceptions.md). -/

namespace Sys2Proof.Machine

/-! ### Memory (R60, R63, R290) -/

/-- What an unlisted address reads as: the reset contents of R290, `FONT` from address 0 and zero after it. -/
def resetByte (font : List Byte) (a : Nat) : Byte := font.getD a 0

/-- The byte at address `a` (R63). -/
def Memory.read (font : List Byte) (m : Memory) (a : Nat) : Byte :=
  match m with
  | [] => resetByte font a
  | (k, b) :: rest => if k = a then b else Memory.read font rest a

/-- Put the cell `(a, b)` before `rest`, unless `b` is what the unlisted address `a` reads as. -/
def Memory.consCell (font : List Byte) (a : Nat) (b : Byte) (rest : Memory) : Memory :=
  if b = resetByte font a then rest else (a, b) :: rest

/-- Set the byte at address `a` to `b` (R63), keeping the canonical form. -/
def Memory.write (font : List Byte) (m : Memory) (a : Nat) (b : Byte) : Memory :=
  match m with
  | [] => Memory.consCell font a b []
  | (k, c) :: rest =>
    if a < k then Memory.consCell font a b ((k, c) :: rest)
    else if a = k then Memory.consCell font a b rest
    else (k, c) :: Memory.write font rest a b

/-- Set the bytes at `a`, `a+1`, … to those of the list, in ascending order (R70). -/
def Memory.writeList (font : List Byte) (m : Memory) (a : Nat) (bytes : List Byte) : Memory :=
  match bytes with
  | [] => m
  | b :: rest => Memory.writeList font (Memory.write font m a b) (a + 1) rest

/-- The canonical form: addresses below `size` and strictly rising, no entry equal to its reset contents. -/
def Memory.wf (font : List Byte) (size : Nat) (m : Memory) : Bool :=
  match m with
  | [] => true
  | (a, b) :: rest =>
    decide (a < size) && decide (b ≠ resetByte font a) && rest.all (fun c => decide (a < c.1)) &&
      Memory.wf font size rest

/-- `mem[a]` of a state (R60). -/
def State.readByte (s : State) (a : Nat) : Byte := Memory.read s.params.font s.mem a

/-- Store bytes at `a`, `a+1`, … (R63, R70). -/
def State.storeBytes (s : State) (a : Nat) (bytes : List Byte) : State :=
  { s with mem := Memory.writeList s.params.font s.mem a bytes }

/-- `Fetch(pc)`: the two bytes at `pc` and `pc+1`, the first the high byte (R68). -/
def State.fetchWord (s : State) : Word :=
  wordOfBytes (s.readByte s.pc.toNat) (s.readByte (s.pc.toNat + 1))

/-! ### The instruction pointer (R113) -/

/-- `pc` after falling through: `pc + 2`. It never wraps in a reachable state (R117). -/
def State.advance (s : State) : State := { s with pc := s.pc + 2 }

/-- `pc` after a skip instruction: `pc + 4` when the condition holds, else `pc + 2`. -/
def State.skipIf (s : State) (taken : Bool) : State := { s with pc := if taken then s.pc + 4 else s.pc + 2 }

/-- `pc <- target`. -/
def State.jumpTo (s : State) (target : Word) : State := { s with pc := target }

/-! ### The call stack (R25) -/

/-- `push(v)`: `v` is the new top. -/
def State.push (s : State) (a : Word) : State := { s with stack := s.stack ++ [a] }

/-- The stack without its top, what `pop()` leaves. -/
def State.dropTop (s : State) : State := { s with stack := s.stack.dropLast }

/-! ### The framebuffer (R29) -/

/-- `display[y][x]`; `false` outside the 64 columns and 32 rows. -/
def Display.cell (d : Display) (x y : Nat) : Bool := if h : y < 32 then d[y].getLsbD x else false

/-- `display[y][x] <- display[y][x] ^ 1`; nothing outside the framebuffer. -/
def Display.toggle (d : Display) (x y : Nat) : Display :=
  if h : y < 32 then d.set y (d[y] ^^^ BitVec.twoPow 64 x) else d

/-- Every cell off. -/
def Display.cleared : Display := Vector.replicate 32 0

/-- Drive outputs, after those already driven. -/
def State.emit (s : State) (o : List Output) : State := { s with out := s.out ++ o }

/-! ### Taking a fault (R241, R242) -/

/-- Fault entry: `run <- Faulted(code, ins, pc, info)` with `pc` the faulting instruction's address. The faulting
instruction has written nothing (R242), nothing else changes, and there is no return (R246). -/
def State.raiseFault (s : State) (code : FaultCode) (ins : Word) (info : Nat) : State :=
  { s with run := .faulted { code := code, ins := ins, pc := s.pc, info := info } }

/-- The halt of R111: `run <- Halted`, nothing else changes. -/
def State.halt (s : State) : State := { s with run := .halted }

end Sys2Proof.Machine
end

