-- ==== Sys2Proof/Machine/Operands.lean ====
section
/-! DEFINITION. Operand access: general registers, immediates, addresses formed from `I`, key indices (R11, R36, R64, R93). -/

namespace Sys2Proof.Machine

/-- `VF`, register 15, also the flag register (R21). -/
def flagReg : Reg := 15

/-- `V[x]` (R11). -/
def State.reg (s : State) (x : Reg) : Byte := s.v[x]

/-- `V[x] <- b` (R11). -/
def State.setReg (s : State) (x : Reg) (b : Byte) : State := { s with v := s.v.set x b }

/-- `I <- a`. -/
def State.setI (s : State) (a : Word) : State := { s with i := a }

/-- `zext_16(nnn)` (R93). -/
def zextAddr (nnn : BitVec 12) : Word := nnn.setWidth 16

/-- A byte as a 16-bit value (R10). -/
def zextByte (b : Byte) : Word := b.setWidth 16

/-- The data address `I + k`, unbounded and unmasked (R64). -/
def State.dataAddr (s : State) (k : Nat) : Nat := s.i.toNat + k

/-- Are the `len` addresses `I .. I+len-1` all below `MEM_SIZE` (R63, R242)? True when `len = 0`. -/
def State.rangeFits (s : State) (len : Nat) : Bool :=
  decide (len = 0) || decide (s.i.toNat + len ≤ s.params.memSize)

/-- The first address of a range from `I` that is outside memory, `max(I, MEM_SIZE)` (R183, R184, R185, R201, R240). -/
def State.firstBadAddr (s : State) : Nat := max s.i.toNat s.params.memSize

/-- The address of a font glyph, `5 * v`, not masked (R182). -/
def glyphAddr (b : Byte) : Word := BitVec.ofNat 16 (5 * b.toNat)

/-- The target of `BNNN`: `nnn + V[0]`, at most `0x10FE`, not masked (R137). -/
def offsetTarget (nnn : BitVec 12) (b : Byte) : Word := zextAddr nnn + zextByte b

/-- The three decimal digits of a byte: hundreds, tens, ones (R183). -/
def bcdDigits (b : Byte) : List Byte := [b / 100, b / 10 % 10, b % 10]

/-- The bytes of `V[0] .. V[x]` (R184). -/
def State.regsUpTo (s : State) (x : Reg) : List Byte := s.v.toList.take (x.val + 1)

/-- `for k in 0 .. n-1: V[k] <- mem[I + k]` (R185). -/
def State.loadRegs (s : State) (n : Nat) : Vector Byte 16 :=
  match n with
  | 0 => s.v
  | k + 1 => (State.loadRegs s k).setIfInBounds k (s.readByte (s.dataAddr k))

/-- The key a register value names: none above 15 (R220). -/
def keyOfByte (b : Byte) : Option Key := if h : b.toNat < 16 then some ⟨b.toNat, h⟩ else none

/-- A key as a register value (R224). -/
def byteOfKey (k : Key) : Byte := BitVec.ofNat 8 k.val

end Sys2Proof.Machine
end

