-- ==== Sys2Proof/Machine/Flags.lean ====
section
/-! DEFINITION. The flag computations, all written to `VF` as 0 or 1 (R21, R150). -/

namespace Sys2Proof.Machine

/-- A flag as the byte written to `VF`. -/
def flagByte (b : Bool) : Byte := if b then 1 else 0

/-- Carry of an addition: the sum is above 255 (R157). -/
def carryFlag (a b : Byte) : Bool := decide (255 < a.toNat + b.toNat)

/-- No borrow in `a - b`: `a ≥ b` (R158, R160). -/
def noBorrowFlag (a b : Byte) : Bool := decide (b.toNat ≤ a.toNat)

/-- The bit a right shift by one shifts out: old bit 0 (R159). -/
def lowBitFlag (a : Byte) : Bool := a.getLsbD 0

/-- The bit a left shift by one shifts out: old bit 7 (R161). -/
def highBitFlag (a : Byte) : Bool := a.getLsbD 7

/-- `VF <- flag`. -/
def State.setFlag (s : State) (flag : Bool) : State := s.setReg flagReg (flagByte flag)

/-- `V[x] <- result`, then `VF <- flag`: with `x = F` the flag remains (R13, D10). -/
def State.setRegFlag (s : State) (x : Reg) (result : Byte) (flag : Bool) : State := (s.setReg x result).setFlag flag

end Sys2Proof.Machine
end

