-- ==== Sys2Proof/Machine/ControlFlow.lean ====
section
/-! DEFINITION. Control transfer and skips (41_control_flow.md). -/

namespace Sys2Proof.Machine

/-- `00EE` (R130): `pc <- pop() + 2`; `StackUnderflow` when the stack is empty. -/
def execRet (s : State) : Host.Outcome State Fault Refusal :=
  match s.stack.getLast? with
  | none => .next (s.raiseFault .stackUnderflow (encode .ret) s.pc.toNat)
  | some r => .next (s.dropTop.jumpTo (r + 2))

/-- `1NNN` (R131): `pc <- nnn`. -/
def execJp (nnn : BitVec 12) (s : State) : Host.Outcome State Fault Refusal :=
  .next (s.jumpTo (zextAddr nnn))

/-- `2NNN` (R132): `push(pc)`, then `pc <- nnn`; `StackOverflow` when the stack holds `STACK_DEPTH` entries. -/
def execCall (nnn : BitVec 12) (s : State) : Host.Outcome State Fault Refusal :=
  if s.params.stackDepth ≤ s.stack.length then
    .next (s.raiseFault .stackOverflow (encode (.call nnn)) s.pc.toNat)
  else .next ((s.push s.pc).jumpTo (zextAddr nnn))

/-- `3XNN` (R133): skip when `V[x] = nn`. -/
def execSeImm (x : Reg) (nn : Byte) (s : State) : Host.Outcome State Fault Refusal :=
  .next (s.skipIf (s.reg x == nn))

/-- `4XNN` (R134): skip when `V[x] ≠ nn`. -/
def execSneImm (x : Reg) (nn : Byte) (s : State) : Host.Outcome State Fault Refusal :=
  .next (s.skipIf (s.reg x != nn))

/-- `5XY0` (R135): skip when `V[x] = V[y]`. -/
def execSeReg (x y : Reg) (s : State) : Host.Outcome State Fault Refusal :=
  .next (s.skipIf (s.reg x == s.reg y))

/-- `9XY0` (R136): skip when `V[x] ≠ V[y]`. -/
def execSneReg (x y : Reg) (s : State) : Host.Outcome State Fault Refusal :=
  .next (s.skipIf (s.reg x != s.reg y))

/-- `BNNN` (R137): `pc <- nnn + V[0]`. -/
def execJpV0 (nnn : BitVec 12) (s : State) : Host.Outcome State Fault Refusal :=
  .next (s.jumpTo (offsetTarget nnn (s.reg 0)))

end Sys2Proof.Machine
end

