-- ==== Sys2Proof/Machine/Display.lean ====
section
/-! DEFINITION. The display instructions and the sprite-drawing unit (44_display.md). -/

namespace Sys2Proof.Machine

/-- What a sprite draw carries along: the framebuffer, the collision flag, and the `setPixel` calls in order (R201, R204). -/
structure DrawAcc where
  display   : Display
  collision : Bool
  calls     : List Output
  deriving DecidableEq, Repr

/-- Toggle one cell under a set sprite bit, if it lies in the framebuffer (R202); a cell going from on to off is a
collision (R203); the Surface is told the new value (R204). -/
def drawCell (px py : Nat) (a : DrawAcc) : DrawAcc :=
  if px < displayWidth ∧ py < displayHeight then
    { display := a.display.toggle px py
      collision := a.collision || a.display.cell px py
      calls := a.calls ++ [.setPixel px py (!a.display.cell px py)] }
  else a

/-- Column `j` of a sprite row, bit `7-j` of its byte (R201). -/
def drawBit (row : Byte) (x0 py : Nat) (a : DrawAcc) (j : Nat) : DrawAcc :=
  if row.getLsbD (7 - j) then drawCell (x0 + j) py a else a

/-- One sprite row: columns 0 to 7 in ascending order (R201). -/
def drawRow (row : Byte) (x0 py : Nat) (a : DrawAcc) : DrawAcc := (List.range 8).foldl (drawBit row x0 py) a

/-- The rows of a sprite in ascending order, row `i` from memory byte `I + i` (R201). -/
def State.drawRows (s : State) (x0 y0 n : Nat) : DrawAcc :=
  (List.range n).foldl (fun a i => drawRow (s.readByte (s.dataAddr i)) x0 (y0 + i) a)
    { display := s.display, collision := false, calls := [] }

/-- `00E0` (R200): every cell off, one `Surface.clear()` call. -/
def execCls (s : State) : Host.Outcome State Fault Refusal :=
  .next ({ s with display := Display.cleared }.emit [.clear]).advance

/-- `DXYN` (R201): draw `n` rows at `(V[x], V[y])`, then `VF <- collision`; `MemoryOutOfBounds` when a row address is
`≥ MEM_SIZE`, clipped rows included (D13). -/
def execDrw (x y : Reg) (n : RowCount) (s : State) : Host.Outcome State Fault Refusal :=
  if s.rangeFits n.val then
    let a := s.drawRows (s.reg x).toNat (s.reg y).toNat n.val
    .next ((({ s with display := a.display }.emit a.calls).setFlag a.collision)).advance
  else .next (s.raiseFault .memoryOutOfBounds (encode (.drw x y n)) s.firstBadAddr)

end Sys2Proof.Machine
end

