-- ==== Sys2Proof/Machine/IndexMemory.lean ====
section
/-! DEFINITION. The address register and memory transfer (43_index_memory.md). -/

namespace Sys2Proof.Machine

/-- `ANNN` (R180): `I <- nnn`. -/
def execLdI (nnn : BitVec 12) (s : State) : Host.Outcome State Fault Refusal :=
  .next (s.setI (zextAddr nnn)).advance

/-- `FX1E` (R181): `I <- (I + V[x]) mod 2^16`, no flag. -/
def execAddIVx (x : Reg) (s : State) : Host.Outcome State Fault Refusal :=
  .next (s.setI (s.i + zextByte (s.reg x))).advance

/-- `FX29` (R182): `I <- 5 * V[x]`, not masked. -/
def execLdFVx (x : Reg) (s : State) : Host.Outcome State Fault Refusal :=
  .next (s.setI (glyphAddr (s.reg x))).advance

/-- `FX33` (R183): the decimal digits of `V[x]` at `I, I+1, I+2`; `MemoryOutOfBounds` when `I + 2 ≥ MEM_SIZE`. -/
def execLdBVx (x : Reg) (s : State) : Host.Outcome State Fault Refusal :=
  if s.rangeFits 3 then .next (s.storeBytes (s.dataAddr 0) (bcdDigits (s.reg x))).advance
  else .next (s.raiseFault .memoryOutOfBounds (encode (.ldBVx x)) s.firstBadAddr)

/-- `FX55` (R184): `V[0] .. V[x]` to `I .. I+x`; `MemoryOutOfBounds` when `I + x ≥ MEM_SIZE`. -/
def execLdMemVx (x : Reg) (s : State) : Host.Outcome State Fault Refusal :=
  if s.rangeFits (x.val + 1) then .next (s.storeBytes (s.dataAddr 0) (s.regsUpTo x)).advance
  else .next (s.raiseFault .memoryOutOfBounds (encode (.ldMemVx x)) s.firstBadAddr)

/-- `FX65` (R185): `V[0] .. V[x]` from `I .. I+x`; `MemoryOutOfBounds` when `I + x ≥ MEM_SIZE`. -/
def execLdVxMem (x : Reg) (s : State) : Host.Outcome State Fault Refusal :=
  if s.rangeFits (x.val + 1) then .next { s with v := s.loadRegs (x.val + 1) }.advance
  else .next (s.raiseFault .memoryOutOfBounds (encode (.ldVxMem x)) s.firstBadAddr)

end Sys2Proof.Machine
end

