-- ==== Sys2Proof/Machine/InputTimers.lean ====
section
/-! DEFINITION. Key input and timer access (45_input_timers.md). -/

namespace Sys2Proof.Machine

/-- `EX9E` (R220, R221): skip when key `V[x]` is pressed; `KeyIndexOutOfRange` when `V[x] > 15`. -/
def execSkp (x : Reg) (s : State) : Host.Outcome State Fault Refusal :=
  match keyOfByte (s.reg x) with
  | some k => .next (s.skipIf s.pressed[k])
  | none => .next (s.raiseFault .keyIndexOutOfRange (encode (.skp x)) (s.reg x).toNat)

/-- `EXA1` (R220, R222): skip when key `V[x]` is not pressed; `KeyIndexOutOfRange` when `V[x] > 15`. -/
def execSknp (x : Reg) (s : State) : Host.Outcome State Fault Refusal :=
  match keyOfByte (s.reg x) with
  | some k => .next (s.skipIf (!s.pressed[k]))
  | none => .next (s.raiseFault .keyIndexOutOfRange (encode (.sknp x)) (s.reg x).toNat)

/-- `FX07` (R223): `V[x] <- DT`. -/
def execLdVxDT (x : Reg) (s : State) : Host.Outcome State Fault Refusal :=
  .next (s.setReg x s.dt).advance

/-- `FX0A` (R224): with the latch empty, stay and suspend the batch; else the latched key goes to `V[x]` and the latch is
emptied. -/
def execLdVxK (x : Reg) (s : State) : Host.Outcome State Fault Refusal :=
  match s.latch with
  | none => .next { s with suspend := true }
  | some k => .next { s.setReg x (byteOfKey k) with latch := none }.advance

/-- `FX15` (R225): `DT <- V[x]`. -/
def execLdDTVx (x : Reg) (s : State) : Host.Outcome State Fault Refusal :=
  .next { s with dt := s.reg x }.advance

/-- `FX18` (R226): `ST <- V[x]`. -/
def execLdSTVx (x : Reg) (s : State) : Host.Outcome State Fault Refusal :=
  .next { s with st := s.reg x }.advance

end Sys2Proof.Machine
end

