-- ==== Sys2Proof/Machine/LoadAlu.lean ====
section
/-! DEFINITION. Register loads, arithmetic, logic and random (42_load_alu.md). -/

namespace Sys2Proof.Machine

/-- `6XNN` (R151): `V[x] <- nn`. -/
def execLdImm (x : Reg) (nn : Byte) (s : State) : Host.Outcome State Fault Refusal :=
  .next (s.setReg x nn).advance

/-- `7XNN` (R152): `V[x] <- (V[x] + nn) mod 256`, no flag. -/
def execAddImm (x : Reg) (nn : Byte) (s : State) : Host.Outcome State Fault Refusal :=
  .next (s.setReg x (s.reg x + nn)).advance

/-- `8XY0` (R153): `V[x] <- V[y]`. -/
def execLdReg (x y : Reg) (s : State) : Host.Outcome State Fault Refusal :=
  .next (s.setReg x (s.reg y)).advance

/-- `8XY1` (R154): `V[x] <- V[x] | V[y]`, no flag (D9). -/
def execOrReg (x y : Reg) (s : State) : Host.Outcome State Fault Refusal :=
  .next (s.setReg x (s.reg x ||| s.reg y)).advance

/-- `8XY2` (R155): `V[x] <- V[x] & V[y]`, no flag (D9). -/
def execAndReg (x y : Reg) (s : State) : Host.Outcome State Fault Refusal :=
  .next (s.setReg x (s.reg x &&& s.reg y)).advance

/-- `8XY3` (R156): `V[x] <- V[x] ^ V[y]`, no flag (D9). -/
def execXorReg (x y : Reg) (s : State) : Host.Outcome State Fault Refusal :=
  .next (s.setReg x (s.reg x ^^^ s.reg y)).advance

/-- `8XY4` (R157): `V[x] <- (V[x] + V[y]) mod 256`, then `VF <- carry`. -/
def execAddReg (x y : Reg) (s : State) : Host.Outcome State Fault Refusal :=
  .next (s.setRegFlag x (s.reg x + s.reg y) (carryFlag (s.reg x) (s.reg y))).advance

/-- `8XY5` (R158): `V[x] <- (V[x] - V[y]) mod 256`, then `VF <- no borrow`. -/
def execSubReg (x y : Reg) (s : State) : Host.Outcome State Fault Refusal :=
  .next (s.setRegFlag x (s.reg x - s.reg y) (noBorrowFlag (s.reg x) (s.reg y))).advance

/-- `8XY6` (R159): `V[x] <- V[x] >> 1`, then `VF <-` old bit 0; `Y` is ignored (R94, D11). -/
def execShr (x : Reg) (s : State) : Host.Outcome State Fault Refusal :=
  .next (s.setRegFlag x (s.reg x >>> 1) (lowBitFlag (s.reg x))).advance

/-- `8XY7` (R160): `V[x] <- (V[y] - V[x]) mod 256`, then `VF <- no borrow`. -/
def execSubn (x y : Reg) (s : State) : Host.Outcome State Fault Refusal :=
  .next (s.setRegFlag x (s.reg y - s.reg x) (noBorrowFlag (s.reg y) (s.reg x))).advance

/-- `8XYE` (R161): `V[x] <- (V[x] << 1) mod 256`, then `VF <-` old bit 7; `Y` is ignored (R94, D11). -/
def execShl (x : Reg) (s : State) : Host.Outcome State Fault Refusal :=
  .next (s.setRegFlag x (s.reg x <<< 1) (highBitFlag (s.reg x))).advance

/-- `CXNN` for a given draw `r` (R162): `V[x] <- r & nn`; one draw is taken, whatever `nn` is. -/
def rndWithDraw (r : Byte) (x : Reg) (nn : Byte) (s : State) : State :=
  { (s.setReg x (r &&& nn)).advance with draws := s.draws + 1 }

/-- `CXNN` (R162): the draw is the free value of the state's next draw number (R275, D21). -/
def execRnd (x : Reg) (nn : Byte) (s : State) : Host.Outcome State Fault Refusal :=
  .next (rndWithDraw (Config.randomByte s.draws) x nn s)

end Sys2Proof.Machine
end

