-- ==== Sys2Proof/Machine/Scheduler.lean ====
section
/-! DEFINITION. The ROM loader (R291, R292) and the parts of a tick around the batch: sound cue, timers, input poll,
`present()`, quit (R250 parts (2) to (6), R255 to R259). -/

namespace Sys2Proof.Machine

/-! ### The loader -/

/-- Load a ROM (R291): its bytes at `0x200 ..`, then `run <- Running`. A ROM longer than `MEM_SIZE - 0x200` writes nothing
and leaves `run <- LoadFailed(RomTooLarge, 0, 0x200, L)` (R292). The port is emptied: a ROM is taken once (D41). -/
def State.loadRom (s : State) (rom : List Byte) : State :=
  if rom.length ≤ s.params.memSize - programOrigin then
    { s.storeBytes programOrigin rom with run := .running, romPort := none }
  else
    { s with
      run := .loadFailed { code := .romTooLarge, ins := 0, pc := BitVec.ofNat 16 programOrigin, info := rom.length }
      romPort := none }

/-! ### The parts of a tick after the batch -/

/-- Part (2), the sound cue: `beep` is asserted if and only if `ST = 1` before the decrement (R255). -/
def State.soundCue (s : State) : State := s.emit [.beep (s.st == 1)]

/-- One tick of a timer: down by one, floor 0 (R256). -/
def timerTick (t : Byte) : Byte := if t = 0 then 0 else t - 1

/-- Part (2), the timers (R256). -/
def State.decrementTimers (s : State) : State := { s with dt := timerTick s.dt, st := timerTick s.st }

/-- One host event (R258): a `KeyDown` counts only on a transition from released to pressed and overwrites the latch; a
`KeyUp` leaves the latch. -/
def State.hostEvent (s : State) (e : HostEvent) : State :=
  match e with
  | .keyDown k => if s.pressed[k] then s else { s with pressed := s.pressed.set k true, latch := some k }
  | .keyUp k => { s with pressed := s.pressed.set k false }
  | .quit => { s with quitPending := true }

/-- Part (3), the input poll: this tick's events in the host's order (R258), taken from the port; none when the port lists
no further tick (log 7). -/
def State.poll (s : State) : State :=
  { (s.events.headD []).foldl State.hostEvent s with events := s.events.tail }

/-- Part (4): `Surface.present()` (R273). -/
def State.present (s : State) : State := s.emit [.present]

/-- Part (6): a pending quit stops the core (R259). -/
def State.quitCheck (s : State) : State := if s.quitPending then { s with run := .stopped } else s

/-- The batch counter and the suspend result are not held between ticks (R34): the next batch starts from 0 (R250). -/
def State.clearTransient (s : State) : State := { s with count := 0, suspend := false }

/-- Parts (2) to (6) of a tick, in order (R250, D16). Part (5), pacing, has no state effect (R5, D39). -/
def State.endTick (s : State) : State :=
  s.soundCue.decrementTimers.poll.present.quitCheck.clearTransient

/-- Does the batch of the present tick go on (R250, R252, R253)? The core is `Running`, fewer than `BATCH_SIZE`
instructions have run, and no `FX0A` has suspended. -/
def State.inBatch (s : State) : Bool :=
  decide (s.run = .running) && decide (s.count < s.params.batchSize) && !s.suspend

/-- Count a completed or suspended instruction against the batch (R252). A fault discards everything (R241) and counts
nothing. -/
def State.countInstr (s : State) : State :=
  if s.run = .running then { s with count := s.count + 1 } else s

end Sys2Proof.Machine
end

