-- ==== Sys2Proof/WellFormed.lean ====
section
/-! DEFINITION. What a well-formed parameter record is (R8).

An `Instr` needs no check of its own: it carries its operand bounds in its field types (a register number is a `Fin 16`, an
immediate a `BitVec 8`, an address a `BitVec 12`), and R93 says that every value of every field is valid, so every
`Instr` is well formed and an ill-formed one cannot be written. -/

namespace Sys2Proof

/-- The parameter ranges of R8: `0x200 ≤ MEM_SIZE ≤ 0xF000`, `STACK_DEPTH ≥ 1`, `BATCH_SIZE ≥ 1`, `FONT` 80 bytes. -/
def Config.wf (c : Config) : Bool :=
  decide (0x200 ≤ c.memSize) && decide (c.memSize ≤ 0xF000) && decide (1 ≤ c.stackDepth) &&
    decide (1 ≤ c.batchSize) && decide (c.font.length = fontLength)

end Sys2Proof
end

