-- ==== Sys2Proof/Machine/Cycle.lean ====
section
/-! DEFINITION. `Step()` of the dispatcher (R110 to R115) and the machine's step around it: load, batch, end of tick
(R250, R251, R290, R291). -/

namespace Sys2Proof.Machine

/-- Count the instruction in the state an execution leaves. -/
def countOutcome (o : Host.Outcome State Fault Refusal) : Host.Outcome State Fault Refusal :=
  match o with
  | .next s => .next s.countInstr
  | .fault r => .fault r
  | .refused r => .refused r

/-- Execute what a fetched word decodes to; an unknown word faults with no state changed (R97, R112). -/
def runWord (w : Word) (s : State) : Host.Outcome State Fault Refusal :=
  match decode w with
  | .ok i => countOutcome (exec i s)
  | .error _ => .next (s.raiseFault .unknownOpcode w w.toNat)

/-- `Step()` (R115): halt test, straddling fetch, fetch, decode, execute, in that order (R244). -/
def dispatcherStep (s : State) : Host.Outcome State Fault Refusal :=
  if s.params.memSize ≤ s.pc.toNat then .next s.halt
  else if s.pc.toNat = s.params.memSize - 1 then .next (s.raiseFault .fetchOutOfBounds 0 s.pc.toNat)
  else runWord s.fetchWord s

/-- A core with no ROM takes the one the host offers (R291); offered none, it waits, and no tick runs (R251). -/
def boot (s : State) : State :=
  match s.romPort with
  | some rom => s.loadRom rom
  | none => s

/-- One step of the machine by the run state (R250, R251). A `Running` core in its batch runs one `Step()`; a `Running`
core whose batch is over and a `Halted` core do parts (2) to (6) of the tick; a core whose run has ended keeps its state
(log 5). A ROM offered after the load is refused (D41). -/
def coreStep (s : State) : Host.Outcome State Fault Refusal :=
  if s.params.wf = false then .fault .parametersOutOfRange
  else
    match s.run with
    | .unloaded => .next (boot s)
    | .running =>
      if s.romPort.isSome then .refused .romLoadRefused
      else if s.inBatch then dispatcherStep s
      else .next s.endTick
    | .halted => if s.romPort.isSome then .refused .romLoadRefused else .next s.endTick
    | .loadFailed _ => if s.romPort.isSome then .refused .romLoadRefused else .next s
    | .faulted _ => if s.romPort.isSome then .refused .romLoadRefused else .next s
    | .stopped => if s.romPort.isSome then .refused .romLoadRefused else .next s

/-! ### Placing an instruction where the next step fetches it -/

/-- Where an instruction can be fetched: `pc`, or address 0 when `pc` does not leave room for two bytes of memory. -/
def State.fetchSlot (s : State) : Word := if s.pc.toNat + 1 < s.params.memSize then s.pc else 0

/-- The state with `word` stored big-endian (R67) where the next step fetches, and everything set that a fetch takes: the
core is `Running`, no ROM is waiting, and the batch is open (log 4). -/
def State.placeWord (s : State) (word : Word) : State :=
  let a := s.fetchSlot
  { s.storeBytes a.toNat [highByte word, lowByte word] with
    pc := a, run := .running, romPort := none, suspend := false
    count := if s.count < s.params.batchSize then s.count else 0 }

end Sys2Proof.Machine
end

