-- ==== Sys2Proof/Machine/Step.lean ====
section
/-! DEFINITION. One step of the machine, and the host's way to place an instruction where the next step fetches it. -/

namespace Sys2Proof.Machine

/-- One step of the machine: the ROM load, one `Step()` of the dispatcher, or the end of a tick (R250, R251; log 11). -/
def step (s : State) : Host.Outcome State Fault Refusal := coreStep s

/-- `s` with the instruction whose bits are `w` (of which the table gives `nbits`; the bits above are 0) stored where `step`
fetches next. It stands for the host's ROM load (log 4). -/
def State.withFetchWord (s : State) (nbits w : Nat) : State := s.placeWord (BitVec.ofNat 16 (w % 2 ^ nbits))

end Sys2Proof.Machine
end

