-- ==== Sys2Proof/Safety.lean ====
section
/-! DEFINITION. The terms claims use: what a good state is, what an instruction may write, what stays unchanged, the ends of
a run (R260), and the sprite a `DXYN` draws, said cell by cell (R201 to R204). -/

namespace Sys2Proof.Machine

/-! ### Frames -/

/-- The parts of the state, other than `V` and `pc`, that some instruction writes. -/
inductive Field where
  | i | stack | dt | st | display | latch | run | mem | suspend | draws | out
  deriving DecidableEq, Repr

/-- Every general register outside `rs` is unchanged. -/
def RegsUnchangedBut (rs : List Reg) (s t : State) : Prop := ∀ r, r ∉ rs → t.reg r = s.reg r

/-- Every part of the state other than `V`, `pc` and the named fields is unchanged; for memory, every byte reads as before. -/
structure UnchangedBut (fs : List Field) (s t : State) : Prop where
  params      : t.params = s.params
  pressed     : t.pressed = s.pressed
  quitPending : t.quitPending = s.quitPending
  count       : t.count = s.count
  romPort     : t.romPort = s.romPort
  events      : t.events = s.events
  i           : .i ∉ fs → t.i = s.i
  stack       : .stack ∉ fs → t.stack = s.stack
  dt          : .dt ∉ fs → t.dt = s.dt
  st          : .st ∉ fs → t.st = s.st
  display     : .display ∉ fs → t.display = s.display
  latch       : .latch ∉ fs → t.latch = s.latch
  run         : .run ∉ fs → t.run = s.run
  mem         : .mem ∉ fs → ∀ a, t.readByte a = s.readByte a
  suspend     : .suspend ∉ fs → t.suspend = s.suspend
  draws       : .draws ∉ fs → t.draws = s.draws
  out         : .out ∉ fs → t.out = s.out

/-- Every byte of memory outside `a .. a+len-1` reads as before. -/
def MemUnchangedOutside (a len : Nat) (s t : State) : Prop :=
  ∀ b, b < a ∨ a + len ≤ b → t.readByte b = s.readByte b

/-- The registers an instruction may write (R21, R22). -/
def writesRegs (i : Instr) : List Reg :=
  match i with
  | .ldImm x _ | .addImm x _ | .rnd x _ => [x]
  | .ldReg x _ | .orReg x _ | .andReg x _ | .xorReg x _ => [x]
  | .addReg x _ | .subReg x _ | .shr x _ | .subn x _ | .shl x _ => [x, flagReg]
  | .drw _ _ _ => [flagReg]
  | .ldVxDT x | .ldVxK x => [x]
  | .ldVxMem x => (List.finRange 16).filter (fun r => decide (r ≤ x))
  | .cls | .ret | .jp _ | .call _ | .seImm _ _ | .sneImm _ _ | .seReg _ _ | .sneReg _ _ | .ldI _ | .jpV0 _ => []
  | .skp _ | .sknp _ | .ldDTVx _ | .ldSTVx _ | .addIVx _ | .ldFVx _ | .ldBVx _ | .ldMemVx _ => []

/-- The other parts of the state an instruction may write (R23, R25, R27 to R31, R62, R240). -/
def writesFields (i : Instr) : List Field :=
  match i with
  | .cls => [.display, .out]
  | .ret | .call _ => [.stack, .run]
  | .ldI _ | .addIVx _ | .ldFVx _ => [.i]
  | .rnd _ _ => [.draws]
  | .drw _ _ _ => [.display, .out, .run]
  | .skp _ | .sknp _ => [.run]
  | .ldVxK _ => [.latch, .suspend]
  | .ldDTVx _ => [.dt]
  | .ldSTVx _ => [.st]
  | .ldBVx _ | .ldMemVx _ => [.mem, .run]
  | .ldVxMem _ => [.run]
  | .jp _ | .jpV0 _ | .seImm _ _ | .sneImm _ _ | .seReg _ _ | .sneReg _ _ | .ldImm _ _ | .addImm _ _ => []
  | .ldReg _ _ | .orReg _ _ | .andReg _ _ | .xorReg _ _ | .addReg _ _ | .subReg _ _ | .shr _ _ => []
  | .subn _ _ | .shl _ _ | .ldVxDT _ => []

/-- How many bytes an instruction stores, from the data address `I` up (R62, R183, R184). -/
def storedLength (i : Instr) : Nat :=
  match i with
  | .ldBVx _ => 3
  | .ldMemVx x => x.val + 1
  | .cls | .ret | .jp _ | .call _ | .seImm _ _ | .sneImm _ _ | .seReg _ _ | .sneReg _ _ | .ldI _ | .jpV0 _ => 0
  | .ldImm _ _ | .addImm _ _ | .ldReg _ _ | .orReg _ _ | .andReg _ _ | .xorReg _ _ | .addReg _ _ | .subReg _ _ => 0
  | .shr _ _ | .subn _ _ | .shl _ _ | .rnd _ _ | .drw _ _ _ | .skp _ | .sknp _ | .ldVxDT _ | .ldVxK _ => 0
  | .ldDTVx _ | .ldSTVx _ | .addIVx _ | .ldFVx _ | .ldVxMem _ => 0

/-! ### Encodings -/

/-- The word encodes the instruction, and the decoder reads it back (R92, R93, R96). -/
def EncodedAs (i : Instr) (w : Word) : Prop := encode i = w ∧ decode w = .ok i

/-! ### An instruction's own check (R240, R244) -/

/-- The one check an instruction makes before it writes anything: the fault code and `info` of R240's table when the
condition there holds. -/
def ownCheck (i : Instr) (s : State) : Option (FaultCode × Nat) :=
  match i with
  | .call _ => if s.stack.length ≥ s.params.stackDepth then some (.stackOverflow, s.pc.toNat) else none
  | .ret => if s.stack = [] then some (.stackUnderflow, s.pc.toNat) else none
  | .drw _ _ n =>
    if n.val > 0 ∧ s.i.toNat + n.val - 1 ≥ s.params.memSize then
      some (.memoryOutOfBounds, max s.i.toNat s.params.memSize) else none
  | .ldBVx _ =>
    if s.i.toNat + 2 ≥ s.params.memSize then some (.memoryOutOfBounds, max s.i.toNat s.params.memSize) else none
  | .ldMemVx x | .ldVxMem x =>
    if s.i.toNat + x.val ≥ s.params.memSize then some (.memoryOutOfBounds, max s.i.toNat s.params.memSize) else none
  | .skp x | .sknp x => if (s.reg x).toNat > 15 then some (.keyIndexOutOfRange, (s.reg x).toNat) else none
  | .cls | .jp _ | .jpV0 _ | .seImm _ _ | .sneImm _ _ | .seReg _ _ | .sneReg _ _ | .ldImm _ _ | .addImm _ _ => none
  | .ldReg _ _ | .orReg _ _ | .andReg _ _ | .xorReg _ _ | .addReg _ _ | .subReg _ _ | .shr _ _ | .subn _ _ => none
  | .shl _ _ | .ldI _ | .rnd _ _ | .ldVxDT _ | .ldVxK _ | .ldDTVx _ | .ldSTVx _ | .addIVx _ | .ldFVx _ => none

/-- The state a fault leaves: `run <- Faulted(code, ins, pc, info)`, all else as it was (R241, R242). -/
def FaultsTo (s : State) (code : FaultCode) (ins : Word) (info : Nat) : State :=
  { s with run := .faulted { code := code, ins := ins, pc := s.pc, info := info } }

/-! ### The invariant of the machine -/

/-- What holds of the constructed core and is kept by every step. -/
structure State.Inv (s : State) : Prop where
  /-- Memory is in canonical form and lists no address outside memory (R60). -/
  memory        : Memory.wf s.params.font s.params.memSize s.mem = true
  /-- R26. -/
  stackDepth    : s.stack.length ≤ s.params.stackDepth
  /-- A pushed address is that of a fetched `2NNN`, so returning past it stays within `MEM_SIZE` (R117, R132). -/
  stackEntries  : ∀ a ∈ s.stack, a.toNat + 2 ≤ s.params.memSize
  /-- R117: `pc` is at most `max(MEM_SIZE + 2, 0x10FE)`, so it never wraps. -/
  pcBound       : s.pc.toNat ≤ max (s.params.memSize + 2) 0x10FE
  /-- A batch runs at most `BATCH_SIZE` instructions (R252). -/
  batch         : s.count ≤ s.params.batchSize
  /-- `Halted` is the state of a `pc` outside memory (R111, R260). -/
  haltedOutside : s.run = .halted → s.params.memSize ≤ s.pc.toNat
  /-- A fault record holds the address and the word of the faulting instruction, which still stand in `pc` and in memory
  (R241, R242), and never code 2 or 8 (R116, R240). -/
  faultPrecise  : ∀ r, s.run = .faulted r →
    r.pc = s.pc ∧ r.ins = (if r.code = .fetchOutOfBounds then 0 else s.fetchWord) ∧
      r.code ≠ .registerOutOfRange ∧ r.code ≠ .romTooLarge

/-! ### Runs -/

/-- The end of the program: `pc` has left memory (R260). -/
def State.programEnded (s : State) : Prop := s.run = .halted

/-- The end of the run: the host quit (R260). -/
def State.runEnded (s : State) : Prop := s.run = .stopped

/-- A fatal error, which is never a normal end (R241, R260). -/
def State.failed (s : State) : Prop := (∃ r, s.run = .faulted r) ∨ (∃ r, s.run = .loadFailed r)

/-- `k` steps from `s` lead to `t`. -/
def RunsTo (k : Nat) (s t : State) : Prop := Host.Core.run Sys2Proof.core k s = .next t

/-- A core that can step: parameters in the ranges of R8 and no second ROM waiting. -/
def State.ready (s : State) : Prop := s.params.wf = true ∧ s.romPort = none

/-- A core whose next step is the end of a tick: `Running` with its batch over, or `Halted` (R250, R251). -/
def State.endingTick (s : State) : Prop :=
  s.ready ∧ ((s.run = .running ∧ s.inBatch = false) ∨ s.run = .halted)

/-- A core whose next step is `Step()` of the dispatcher (R250, R251). -/
def State.dispatching (s : State) : Prop := s.ready ∧ s.inBatch = true

/-! ### The sprite of a `DXYN`, cell by cell -/

/-- Does the sprite of `n` rows at `I`, drawn at `(x0, y0)`, have a set bit over the cell `(cx, cy)` (R201)? -/
def State.spriteBit (s : State) (x0 y0 n cx cy : Nat) : Bool :=
  decide (x0 ≤ cx) && decide (cx < x0 + 8) && decide (y0 ≤ cy) && decide (cy < y0 + n) &&
    (s.readByte (s.dataAddr (cy - y0))).getLsbD (7 - (cx - x0))

/-- Does the sprite have a set bit over a cell of the framebuffer that is on (R203)? -/
def State.spriteCollides (s : State) (x0 y0 n : Nat) : Prop :=
  ∃ cx cy, cx < displayWidth ∧ cy < displayHeight ∧ s.spriteBit x0 y0 n cx cy = true ∧ s.display.cell cx cy = true

/-- The `setPixel` calls of the draw in loop order, rows ascending and columns ascending within a row, each with the cell's
new value (R204). -/
def State.spriteCalls (s : State) (x0 y0 n : Nat) : List Output :=
  (List.range n).flatMap fun i => (List.range 8).filterMap fun j =>
    if s.spriteBit x0 y0 n (x0 + j) (y0 + i) ∧ x0 + j < displayWidth ∧ y0 + i < displayHeight then
      some (.setPixel (x0 + j) (y0 + i) (!s.display.cell (x0 + j) (y0 + i)))
    else none

end Sys2Proof.Machine
end

