-- ==== Sys2Proof/Certificates/Slice0/Obligations.lean ====
section
/-! DEFINITION. The statements for the provers, each formalising rules of spec/ (OBLIGATIONS.json says which). -/

open Sys2Proof Sys2Proof.Machine

/-! ### Encoding -/

/-- Every instruction, with every operand at every value, is what the decoder reads from its encoding (R92, R93, R96). -/
def Obligations.DecodeOfEncodeIsTheInstruction : Prop := ∀ i : Instr, decode (encode i) = .ok i

/-- Every word that decodes is the encoding of what it decodes to: no bit of it is dropped, the ignored `Y` of the shifts
included (R94, R96). -/
def Obligations.EncodeOfDecodedIsTheWord : Prop := ∀ (w : Word) (i : Instr), decode w = .ok i → encode i = w

/-- R97 "every 16-bit word is exactly one of the 34 instructions of opcode_table.json or unknown": the decoder against the
table's masks and matches. A word that matches a row decodes to an instruction of that row (R96); a word that decodes
matches its row and no other; a word that matches none is unknown. -/
def Obligations.WordIsExactlyOneRowOrUnknown : Prop :=
  opcodeRows.length = 34 ∧
  ∀ w : Word,
    (∀ i, decode w = .ok i →
      opcodeRow i ∈ opcodeRows ∧ matchesRow (opcodeRow i) w = true ∧
        ∀ row ∈ opcodeRows, matchesRow row w = true → row = opcodeRow i) ∧
    (∀ row ∈ opcodeRows, matchesRow row w = true → ∃ i, decode w = .ok i ∧ opcodeRow i = row) ∧
    ((∀ row ∈ opcodeRows, matchesRow row w = false) → decode w = .error (.unknownOpcode w))

/-- The bytes of an instruction, high byte first, decode to it and leave the rest; fewer than two bytes are truncated
(R67, R90). -/
def Obligations.BytesDecodeBigEndian : Prop :=
  (∀ (i : Instr) (rest : List Byte), decodeBytes (encodeBytes i ++ rest) = .ok (i, rest)) ∧
  (∀ bytes : List Byte, bytes.length < 2 → decodeBytes bytes = .error .truncated)

/-- A word of each family, written out from the examples of the spec's rules, and the unknown words of E6. -/
def Obligations.ExampleWordsDecode : Prop :=
  decode 0x00E0 = .ok .cls ∧ decode 0x1234 = .ok (.jp 0x234) ∧ decode 0x332A = .ok (.seImm 3 0x2A) ∧
  decode 0x6A2F = .ok (.ldImm 0xA 0x2F) ∧ decode 0x8014 = .ok (.addReg 0 1) ∧ decode 0xA2F0 = .ok (.ldI 0x2F0) ∧
  decode 0xD015 = .ok (.drw 0 1 5) ∧ decode 0xE2A1 = .ok (.sknp 2) ∧ decode 0xF30A = .ok (.ldVxK 3) ∧
  decode 0xF533 = .ok (.ldBVx 5) ∧ decode 0x00E1 = .error (.unknownOpcode 0x00E1) ∧
  decode 0x5121 = .error (.unknownOpcode 0x5121) ∧ decode 0x801F = .error (.unknownOpcode 0x801F) ∧
  decode 0xE09F = .error (.unknownOpcode 0xE09F) ∧ decode 0xF0FF = .error (.unknownOpcode 0xF0FF)

/-! ### The step -/

/-- A step in the batch runs the instruction the two bytes at `pc` decode to, and counts it (R113, R115, R252). -/
def Obligations.StepRunsTheDecodedInstruction : Prop :=
  ∀ (s : State) (i : Instr), s.dispatching → s.pc.toNat + 1 < s.params.memSize → decode s.fetchWord = .ok i →
    step s = countOutcome (exec i s) ∧
    ∀ t, exec i s = .next t →
      step s = .next (if t.run = .running then { t with count := t.count + 1 } else t)

/-- The very next step after `withFetchWord` runs the placed word's instruction (the model's stand-in for the ROM load). -/
def Obligations.StepRunsThePlacedWord : Prop :=
  ∀ (s : State) (w : Word) (i : Instr), s.params.wf = true →
    Memory.wf s.params.font s.params.memSize s.mem = true → decode w = .ok i →
    step (s.withFetchWord 16 w.toNat) = countOutcome (exec i (s.withFetchWord 16 w.toNat))

/-- R111: `pc ≥ MEM_SIZE` is a halt; no state other than `run` changes. -/
def Obligations.StepHaltsWhenPcLeavesMemory : Prop :=
  ∀ s : State, s.dispatching → s.params.memSize ≤ s.pc.toNat → step s = .next { s with run := .halted }

/-- R112: a fetch at `MEM_SIZE − 1` faults with code 6, an unknown word with code 1, and no other state changes. -/
def Obligations.StepFaultsOnBadFetchOrUnknownWord : Prop :=
  (∀ s : State, s.dispatching → s.pc.toNat = s.params.memSize - 1 →
    step s = .next (FaultsTo s .fetchOutOfBounds 0 s.pc.toNat)) ∧
  (∀ (s : State) (e : DecodeError), s.dispatching → s.pc.toNat + 1 < s.params.memSize → decode s.fetchWord = .error e →
    step s = .next (FaultsTo s .unknownOpcode s.fetchWord s.fetchWord.toNat))

/-- No core with parameters in range and no second ROM waiting is stuck: every one has a next state (R251, §1 of
93_implementation_defined.md). -/
def Obligations.EveryReadyCoreHasANextState : Prop := ∀ s : State, s.ready → ∃ t, step s = .next t

/-- In `Faulted`, `LoadFailed` and `Stopped`, and in `Unloaded` with no ROM offered, nothing ever changes (R241, R251, T9). -/
def Obligations.EndedOrUnloadedCoreNeverChanges : Prop :=
  ∀ s : State, s.ready → s.failed ∨ s.runEnded ∨ s.run = .unloaded → ∀ k, RunsTo k s s

/-- D41: a ROM offered to a core that is no longer `Unloaded` is refused. -/
def Obligations.SecondRomLoadIsRefused : Prop :=
  ∀ (s : State) (rom : List Byte), s.params.wf = true → s.romPort = some rom → s.run ≠ .unloaded →
    step s = .refused .romLoadRefused

/-! ### Reset and loading -/

/-- R290 and R40: what construction leaves, for the default parameters. -/
def Obligations.ConstructionLeavesTheResetValues : Prop :=
  let s := State.reset
  (∀ a, s.readByte a = if a < 80 then defaultFont.getD a 0 else 0) ∧ s.pc = 0x200 ∧
  (∀ r, s.reg r = 0) ∧ s.i = 0 ∧ s.stack = [] ∧ s.dt = 0 ∧ s.st = 0 ∧
  (∀ x y, s.display.cell x y = false) ∧ (∀ k : Key, s.pressed[k] = false) ∧ s.latch = none ∧
  s.quitPending = false ∧ s.run = .unloaded ∧
  s.params.memSize = 4096 ∧ s.params.stackDepth = 16 ∧ s.params.batchSize = 100 ∧ s.params.font = defaultFont

/-- R291: a ROM that fits is written from `0x200` and the core runs; everything else is as it was. -/
def Obligations.RomThatFitsIsLoadedAndRuns : Prop :=
  ∀ (s : State) (rom : List Byte), s.params.wf = true →
    Memory.wf s.params.font s.params.memSize s.mem = true → s.run = .unloaded → s.romPort = some rom →
    rom.length ≤ s.params.memSize - 0x200 →
    ∃ t, step s = .next t ∧ t.run = .running ∧
      (∀ k, k < rom.length → t.readByte (0x200 + k) = rom.getD k 0) ∧
      MemUnchangedOutside 0x200 rom.length s t ∧
      t = { s with mem := t.mem, run := .running, romPort := none }

/-- R292: a ROM that does not fit writes no byte, leaves the record and `LoadFailed`, and nothing runs after it. That the port
is emptied (log 4) and that a later step answers the same state (log 5) is the model's choice. -/
def Obligations.RomTooLargeFailsTheLoad : Prop :=
  ∀ (s : State) (rom : List Byte), s.params.wf = true → s.run = .unloaded → s.romPort = some rom →
    s.params.memSize - 0x200 < rom.length →
    let t := { s with
      run := .loadFailed { code := .romTooLarge, ins := 0, pc := 0x200, info := rom.length }
      romPort := none }
    step s = .next t ∧ ∀ k, RunsTo k t t

/-! ### The tick -/

/-- Parts (2) to (6) of a tick in one step: the cue is `beep` exactly when `ST = 1` before the decrement (R255), each timer
goes down by one with floor 0 (R256), `present()` is called once (R273), and nothing the program owns changes. That these
parts are one step (log 11), that the port's first event list is taken (log 7) and that the batch counter and the suspend
result are cleared here (log 17) is the model's choice. -/
def Obligations.EndOfTickCueTimersAndPresent : Prop :=
  ∀ s : State, s.endingTick →
    ∃ t, step s = .next t ∧ t.dt.toNat = s.dt.toNat - 1 ∧ t.st.toNat = s.st.toNat - 1 ∧
      t.out = s.out ++ [.beep (decide (s.st.toNat = 1)), .present] ∧ t.events = s.events.tail ∧
      t.count = 0 ∧ t.suspend = false ∧
      t = { s with
            dt := t.dt, st := t.st, out := t.out, events := t.events, count := 0, suspend := false
            pressed := t.pressed, latch := t.latch, quitPending := t.quitPending, run := t.run }

/-- R256: a core that keeps ticking and is not told to quit counts a timer from any value down to 0, where it stays;
said of a `Halted` core, in which no instruction writes a timer. -/
def Obligations.HaltedTimersReachZeroAndStay : Prop :=
  ∀ (s : State) (k : Nat), s.ready → s.run = .halted → s.quitPending = false → (∀ es ∈ s.events, .quit ∉ es) →
    ∃ t, RunsTo k s t ∧ t.run = .halted ∧ t.dt.toNat = s.dt.toNat - k ∧ t.st.toNat = s.st.toNat - k

/-- R258: after a tick's poll, a key is pressed as its last event of that tick says, and as before if it had none. A tick
for which the port lists nothing has no events (log 7). -/
def Obligations.PolledKeyFollowsItsLastEvent : Prop :=
  ∀ (s : State) (k : Key), s.endingTick →
    ∃ t, step s = .next t ∧
      t.pressed[k] =
        match ((s.events.headD []).filter (fun e => e = .keyDown k ∨ e = .keyUp k)).getLast? with
        | some (.keyDown _) => true
        | some _ => false
        | none => s.pressed[k]

/-- R258: a poll applies the tick's events in order. `KeyDown` of a released key presses and latches it, of a pressed key does
nothing; `KeyUp` releases and leaves the latch; `Quit` sets `quit_pending`; a poll of no events changes none of the three.
`poll es` is what the events `es` leave, and the end of a tick leaves what its poll left. -/
def Obligations.PollAppliesTheEventsInOrder : Prop :=
  (∀ (s : State) (es : List HostEvent) (e : HostEvent) (rest : List (List HostEvent)),
    let before := { s with events := es :: rest }.poll
    let after := { s with events := (es ++ [e]) :: rest }.poll
    let empty := { s with events := [] :: rest }.poll
    (match e with
      | .keyDown k =>
        after.pressed = before.pressed.set k true ∧
        after.latch = (if before.pressed[k] = true then before.latch else some k) ∧
        after.quitPending = before.quitPending
      | .keyUp k =>
        after.pressed = before.pressed.set k false ∧ after.latch = before.latch ∧ after.quitPending = before.quitPending
      | .quit => after.pressed = before.pressed ∧ after.latch = before.latch ∧ after.quitPending = true) ∧
    empty.pressed = s.pressed ∧ empty.latch = s.latch ∧ empty.quitPending = s.quitPending) ∧
  (∀ s : State, s.endingTick →
    ∃ t, step s = .next t ∧ t.pressed = s.poll.pressed ∧ t.latch = s.poll.latch ∧ t.quitPending = s.poll.quitPending)

/-- R260: from the halt on, the result of the program (`V`, `I`, `pc`, the stack, memory, the framebuffer) never changes,
whatever the later ticks' events. -/
def Obligations.HaltedProgramResultNeverChanges : Prop :=
  ∀ (s t : State) (k : Nat), s.ready → s.programEnded → RunsTo k s t →
    (t.programEnded ∨ t.runEnded) ∧ t.v = s.v ∧ t.i = s.i ∧ t.pc = s.pc ∧ t.stack = s.stack ∧ t.mem = s.mem ∧
      t.display = s.display

/-- R259: a quit in a tick's events stops the core at the end of that tick, and nothing changes after it; without one the
run state stays. A tick for which the port lists nothing has no events (log 7), and that a step of the stopped core answers
the same state (log 5) is the model's choice. -/
def Obligations.QuitStopsTheCoreAtTheEndOfItsTick : Prop :=
  ∀ s : State, s.endingTick →
    (.quit ∈ s.events.headD [] → ∃ t, step s = .next t ∧ t.run = .stopped ∧ ∀ k, RunsTo k t t) ∧
    (.quit ∉ s.events.headD [] → s.quitPending = false → ∃ t, step s = .next t ∧ t.run = s.run)

/-- R252, R253: a batch ends. Within `BATCH_SIZE − count` steps, all of them steps of the batch, the batch is over. -/
def Obligations.BatchEndsWithinBatchSize : Prop :=
  ∀ s : State, s.dispatching →
    ∃ k t, k ≤ s.params.batchSize - s.count ∧ RunsTo k s t ∧ t.inBatch = false ∧
      ∀ j, j < k → ∃ u, RunsTo j s u ∧ u.dispatching

/-- R252: a batch that ends with the core `Running` and not suspended has run exactly `BATCH_SIZE` instructions. -/
def Obligations.UninterruptedBatchRunsExactlyBatchSize : Prop :=
  ∀ (s t : State) (k : Nat), s.ready → s.run = .running → s.count = 0 → s.suspend = false → RunsTo k s t →
    (∀ j u, j < k → RunsTo j s u → u.inBatch = true) → t.inBatch = false → t.run = .running → t.suspend = false →
    k = s.params.batchSize

/-- R254, R303: no step of a batch takes an event or changes `pressed`, none touches the latch but an `FX0A`, which can only
empty it, and none changes a timer but an `FX15` or `FX18`. -/
def Obligations.TimersAndInputChangeOnlyBetweenBatches : Prop :=
  ∀ s t : State, s.dispatching → step s = .next t →
    t.pressed = s.pressed ∧ t.events = s.events ∧ t.quitPending = s.quitPending ∧
    (t.latch = s.latch ∨ (t.latch = none ∧ ∃ x, decode s.fetchWord = .ok (.ldVxK x))) ∧
    (t.dt = s.dt ∨ ∃ x, decode s.fetchWord = .ok (.ldDTVx x)) ∧
    (t.st = s.st ∨ ∃ x, decode s.fetchWord = .ok (.ldSTVx x))

/-! ### The invariant -/

/-- The constructed core meets the invariant. -/
def Obligations.ConstructedCoreMeetsTheInvariant : Prop := State.reset.params.wf = true ∧ State.reset.Inv

/-- Every step keeps the invariant: canonical memory, R26 on the stack, R117 on `pc`, the batch bound of R252, precise fault
records (R241, R242). -/
def Obligations.EveryStepKeepsTheInvariant : Prop := ∀ s t : State, s.Inv → step s = .next t → t.Inv

/-- No step changes the parameters (R8). -/
def Obligations.NoStepChangesTheParameters : Prop := ∀ s t : State, step s = .next t → t.params = s.params

/-! ### Faults and frames of all instructions -/

/-- R240, R242, R244: an instruction faults exactly when its own check says so, with that code and `info`, and then nothing
but `run` changes; otherwise it answers a next state and `run` is as it was. -/
def Obligations.InstructionsFaultExactlyOnTheirOwnCheck : Prop :=
  ∀ (i : Instr) (s : State),
    (∀ code info, ownCheck i s = some (code, info) → exec i s = .next (FaultsTo s code (encode i) info)) ∧
    (ownCheck i s = none → ∃ t, exec i s = .next t ∧ t.run = s.run)

/-- Every instruction leaves every register and every other part of the state unchanged but those the rules let it write
(R21, R22, R23, R25, R27 to R31). In memory that is in canonical form it leaves every byte unchanged but the `storedLength`
bytes from `I`: three for `FX33`, `x + 1` for `FX55`, none for any other (R62, R183, R184). -/
def Obligations.InstructionsWriteOnlyWhatTheRulesSay : Prop :=
  ∀ (i : Instr) (s t : State), exec i s = .next t →
    RegsUnchangedBut (writesRegs i) s t ∧ UnchangedBut (writesFields i) s t ∧
      (Memory.wf s.params.font s.params.memSize s.mem = true →
        MemUnchangedOutside (s.dataAddr 0) (storedLength i) s t)

/-- R62: a step of the batch changes a byte of memory only by an `FX33` or `FX55`, and only a byte that one stores to. -/
def Obligations.OnlyStoresChangeMemory : Prop :=
  ∀ (s t : State) (a : Nat), s.Inv → s.dispatching → step s = .next t → t.readByte a ≠ s.readByte a →
    ∃ x, (decode s.fetchWord = .ok (.ldBVx x) ∧ s.dataAddr 0 ≤ a ∧ a < s.dataAddr 3) ∨
      (decode s.fetchWord = .ok (.ldMemVx x) ∧ s.dataAddr 0 ≤ a ∧ a < s.dataAddr (x.val + 1))

/-! ### Control transfer and skips -/

/-- R130: `00EE` goes to the popped address plus 2; with an empty stack it faults. -/
def Obligations.ReturnGoesPastTheSavedCall : Prop :=
  EncodedAs .ret 0x00EE ∧
  (∀ (s : State) (below : List Word) (r : Word), s.stack = below ++ [r] →
    ∃ t, exec .ret s = .next t ∧ t.pc = r + 2 ∧ t.stack = below ∧ RegsUnchangedBut [] s t ∧ UnchangedBut [.stack] s t) ∧
  (∀ s : State, s.stack = [] → exec .ret s = .next (FaultsTo s .stackUnderflow 0x00EE s.pc.toNat))

/-- R131 and R137: the jumps, whose targets are `nnn` and `nnn + V[0]`, not masked. -/
def Obligations.JumpsGoToTheirTargets : Prop :=
  ∀ (nnn : BitVec 12) (s : State),
    EncodedAs (.jp nnn) (addrWord 0x1 nnn) ∧ EncodedAs (.jpV0 nnn) (addrWord 0xB nnn) ∧
    (∃ t, exec (.jp nnn) s = .next t ∧ t.pc.toNat = nnn.toNat ∧ RegsUnchangedBut [] s t ∧ UnchangedBut [] s t) ∧
    (∃ t, exec (.jpV0 nnn) s = .next t ∧ t.pc.toNat = nnn.toNat + (s.reg 0).toNat ∧ RegsUnchangedBut [] s t ∧
      UnchangedBut [] s t)

/-- R132: `2NNN` pushes its own address and goes to `nnn`; with `STACK_DEPTH` entries it faults. -/
def Obligations.CallPushesItsOwnAddress : Prop :=
  ∀ (nnn : BitVec 12) (s : State),
    EncodedAs (.call nnn) (addrWord 0x2 nnn) ∧
    (s.stack.length < s.params.stackDepth →
      ∃ t, exec (.call nnn) s = .next t ∧ t.stack = s.stack ++ [s.pc] ∧ t.pc.toNat = nnn.toNat ∧
        RegsUnchangedBut [] s t ∧ UnchangedBut [.stack] s t) ∧
    (s.params.stackDepth ≤ s.stack.length →
      exec (.call nnn) s = .next (FaultsTo s .stackOverflow (addrWord 0x2 nnn) s.pc.toNat))

/-- §8 of the source (S8; R130, R132): a return that finds the stack a call left comes back just after that call. -/
def Obligations.ReturnUndoesCall : Prop :=
  ∀ (nnn : BitVec 12) (s t u : State), s.stack.length < s.params.stackDepth → exec (.call nnn) s = .next t →
    u.stack = t.stack → ∃ r, exec .ret u = .next r ∧ r.pc = s.pc + 2 ∧ r.stack = s.stack

/-- R133 and R134: the skips on an immediate. -/
def Obligations.SkipsOnImmediate : Prop :=
  ∀ (x : Reg) (nn : Byte) (s : State),
    EncodedAs (.seImm x nn) (regImmWord 0x3 x nn) ∧ EncodedAs (.sneImm x nn) (regImmWord 0x4 x nn) ∧
    (∃ t, exec (.seImm x nn) s = .next t ∧ t.pc = (if s.reg x = nn then s.pc + 4 else s.pc + 2) ∧
      RegsUnchangedBut [] s t ∧ UnchangedBut [] s t) ∧
    (∃ t, exec (.sneImm x nn) s = .next t ∧ t.pc = (if s.reg x ≠ nn then s.pc + 4 else s.pc + 2) ∧
      RegsUnchangedBut [] s t ∧ UnchangedBut [] s t)

/-- R135 and R136: the skips on two registers. -/
def Obligations.SkipsOnRegisters : Prop :=
  ∀ (x y : Reg) (s : State),
    EncodedAs (.seReg x y) (regRegWord 0x5 x y 0) ∧ EncodedAs (.sneReg x y) (regRegWord 0x9 x y 0) ∧
    (∃ t, exec (.seReg x y) s = .next t ∧ t.pc = (if s.reg x = s.reg y then s.pc + 4 else s.pc + 2) ∧
      RegsUnchangedBut [] s t ∧ UnchangedBut [] s t) ∧
    (∃ t, exec (.sneReg x y) s = .next t ∧ t.pc = (if s.reg x ≠ s.reg y then s.pc + 4 else s.pc + 2) ∧
      RegsUnchangedBut [] s t ∧ UnchangedBut [] s t)

/-! ### Loads, arithmetic and logic -/

/-- R151 and R152: the immediate forms; neither writes `VF` as a flag. -/
def Obligations.ImmediateLoadAndAdd : Prop :=
  ∀ (x : Reg) (nn : Byte) (s : State),
    EncodedAs (.ldImm x nn) (regImmWord 0x6 x nn) ∧ EncodedAs (.addImm x nn) (regImmWord 0x7 x nn) ∧
    (∃ t, exec (.ldImm x nn) s = .next t ∧ t.reg x = nn ∧ t.pc = s.pc + 2 ∧ RegsUnchangedBut [x] s t ∧
      UnchangedBut [] s t) ∧
    (∃ t, exec (.addImm x nn) s = .next t ∧ (t.reg x).toNat = ((s.reg x).toNat + nn.toNat) % 256 ∧ t.pc = s.pc + 2 ∧
      RegsUnchangedBut [x] s t ∧ UnchangedBut [] s t)

/-- R153 to R156: copy, OR, AND, XOR, bit by bit; none writes `VF` as a flag. -/
def Obligations.CopyAndLogicOfRegisters : Prop :=
  ∀ (x y : Reg) (s : State),
    EncodedAs (.ldReg x y) (regRegWord 0x8 x y 0x0) ∧ EncodedAs (.orReg x y) (regRegWord 0x8 x y 0x1) ∧
    EncodedAs (.andReg x y) (regRegWord 0x8 x y 0x2) ∧ EncodedAs (.xorReg x y) (regRegWord 0x8 x y 0x3) ∧
    (∃ t, exec (.ldReg x y) s = .next t ∧ t.reg x = s.reg y ∧ t.pc = s.pc + 2 ∧
      RegsUnchangedBut [x] s t ∧ UnchangedBut [] s t) ∧
    (∃ t, exec (.orReg x y) s = .next t ∧
      (∀ k, (t.reg x).getLsbD k = ((s.reg x).getLsbD k || (s.reg y).getLsbD k)) ∧ t.pc = s.pc + 2 ∧
      RegsUnchangedBut [x] s t ∧ UnchangedBut [] s t) ∧
    (∃ t, exec (.andReg x y) s = .next t ∧
      (∀ k, (t.reg x).getLsbD k = ((s.reg x).getLsbD k && (s.reg y).getLsbD k)) ∧ t.pc = s.pc + 2 ∧
      RegsUnchangedBut [x] s t ∧ UnchangedBut [] s t) ∧
    (∃ t, exec (.xorReg x y) s = .next t ∧
      (∀ k, (t.reg x).getLsbD k = ((s.reg x).getLsbD k ^^ (s.reg y).getLsbD k)) ∧ t.pc = s.pc + 2 ∧
      RegsUnchangedBut [x] s t ∧ UnchangedBut [] s t)

/-- R157: add with carry; with `x = F` the carry remains and the sum is lost. -/
def Obligations.AddWritesSumThenCarry : Prop :=
  ∀ (x y : Reg) (s : State),
    let sum := (s.reg x).toNat + (s.reg y).toNat
    EncodedAs (.addReg x y) (regRegWord 0x8 x y 0x4) ∧
    ∃ t, exec (.addReg x y) s = .next t ∧ (x ≠ flagReg → (t.reg x).toNat = sum % 256) ∧
      (t.reg flagReg).toNat = (if sum > 255 then 1 else 0) ∧ t.pc = s.pc + 2 ∧
      RegsUnchangedBut [x, flagReg] s t ∧ UnchangedBut [] s t

/-- R158 and R160: subtract and reverse subtract; `VF` is 1 when there is no borrow, and is written last. -/
def Obligations.SubtractWritesDifferenceThenNoBorrow : Prop :=
  ∀ (x y : Reg) (s : State),
    let a := (s.reg x).toNat
    let b := (s.reg y).toNat
    EncodedAs (.subReg x y) (regRegWord 0x8 x y 0x5) ∧ EncodedAs (.subn x y) (regRegWord 0x8 x y 0x7) ∧
    (∃ t, exec (.subReg x y) s = .next t ∧ (x ≠ flagReg → ((t.reg x).toNat : Int) = ((a : Int) - b) % 256) ∧
      (t.reg flagReg).toNat = (if a ≥ b then 1 else 0) ∧ t.pc = s.pc + 2 ∧
      RegsUnchangedBut [x, flagReg] s t ∧ UnchangedBut [] s t) ∧
    (∃ t, exec (.subn x y) s = .next t ∧ (x ≠ flagReg → ((t.reg x).toNat : Int) = ((b : Int) - a) % 256) ∧
      (t.reg flagReg).toNat = (if b ≥ a then 1 else 0) ∧ t.pc = s.pc + 2 ∧
      RegsUnchangedBut [x, flagReg] s t ∧ UnchangedBut [] s t)

/-- R159 and R161: the shifts of `V[x]`; `VF` is the bit shifted out, written last, and `y` does not matter. -/
def Obligations.ShiftsWriteResultThenShiftedBit : Prop :=
  ∀ (x y : Reg) (s : State),
    let a := (s.reg x).toNat
    EncodedAs (.shr x y) (regRegWord 0x8 x y 0x6) ∧ EncodedAs (.shl x y) (regRegWord 0x8 x y 0xE) ∧
    (∃ t, exec (.shr x y) s = .next t ∧ (x ≠ flagReg → (t.reg x).toNat = a / 2) ∧ (t.reg flagReg).toNat = a % 2 ∧
      t.pc = s.pc + 2 ∧ RegsUnchangedBut [x, flagReg] s t ∧ UnchangedBut [] s t) ∧
    (∃ t, exec (.shl x y) s = .next t ∧ (x ≠ flagReg → (t.reg x).toNat = 2 * a % 256) ∧
      (t.reg flagReg).toNat = a / 128 ∧ t.pc = s.pc + 2 ∧ RegsUnchangedBut [x, flagReg] s t ∧ UnchangedBut [] s t)

/-- R162: `CXNN` takes one fresh draw, whatever `nn` is, and writes it ANDed with `nn`. The draw is the free value of the
draw's number, so this holds for every sequence of draws. -/
def Obligations.RandomWritesAFreshDrawMasked : Prop :=
  ∀ (x : Reg) (nn : Byte) (s : State),
    EncodedAs (.rnd x nn) (regImmWord 0xC x nn) ∧
    ∃ t, exec (.rnd x nn) s = .next t ∧ t.reg x = Config.randomByte s.draws &&& nn ∧ t.draws = s.draws + 1 ∧
      t.pc = s.pc + 2 ∧ RegsUnchangedBut [x] s t ∧ UnchangedBut [.draws] s t

/-! ### The address register and memory transfer -/

/-- R180, R181, R182: the three writes of `I`; none writes a flag. -/
def Obligations.AddressRegisterWrites : Prop :=
  (∀ (nnn : BitVec 12) (s : State), EncodedAs (.ldI nnn) (addrWord 0xA nnn) ∧
    ∃ t, exec (.ldI nnn) s = .next t ∧ t.i.toNat = nnn.toNat ∧ t.pc = s.pc + 2 ∧
      RegsUnchangedBut [] s t ∧ UnchangedBut [.i] s t) ∧
  (∀ (x : Reg) (s : State), EncodedAs (.addIVx x) (regImmWord 0xF x 0x1E) ∧
    ∃ t, exec (.addIVx x) s = .next t ∧ t.i.toNat = (s.i.toNat + (s.reg x).toNat) % 65536 ∧ t.pc = s.pc + 2 ∧
      RegsUnchangedBut [] s t ∧ UnchangedBut [.i] s t) ∧
  (∀ (x : Reg) (s : State), EncodedAs (.ldFVx x) (regImmWord 0xF x 0x29) ∧
    ∃ t, exec (.ldFVx x) s = .next t ∧ t.i.toNat = 5 * (s.reg x).toNat ∧ t.pc = s.pc + 2 ∧
      RegsUnchangedBut [] s t ∧ UnchangedBut [.i] s t)

/-- R183: `FX33` stores the three decimal digits of `V[x]` and no other byte, or faults when one would be out of memory. -/
def Obligations.BcdStoresThreeDigits : Prop :=
  ∀ (x : Reg) (s : State),
    EncodedAs (.ldBVx x) (regImmWord 0xF x 0x33) ∧
    (Memory.wf s.params.font s.params.memSize s.mem = true → s.i.toNat + 2 < s.params.memSize →
      ∃ t, exec (.ldBVx x) s = .next t ∧
        (t.readByte (s.dataAddr 0)).toNat = (s.reg x).toNat / 100 ∧
        (t.readByte (s.dataAddr 1)).toNat = (s.reg x).toNat / 10 % 10 ∧
        (t.readByte (s.dataAddr 2)).toNat = (s.reg x).toNat % 10 ∧
        MemUnchangedOutside (s.dataAddr 0) 3 s t ∧ t.pc = s.pc + 2 ∧
        RegsUnchangedBut [] s t ∧ UnchangedBut [.mem] s t) ∧
    (s.params.memSize ≤ s.i.toNat + 2 →
      exec (.ldBVx x) s =
        .next (FaultsTo s .memoryOutOfBounds (regImmWord 0xF x 0x33) (max s.i.toNat s.params.memSize)))

/-- R184: `FX55` stores `V[0] .. V[x]` at `I .. I+x` and no other byte, or faults when one would be out of memory. -/
def Obligations.StoreRegistersWritesV0ToVx : Prop :=
  ∀ (x : Reg) (s : State),
    EncodedAs (.ldMemVx x) (regImmWord 0xF x 0x55) ∧
    (Memory.wf s.params.font s.params.memSize s.mem = true → s.i.toNat + x.val < s.params.memSize →
      ∃ t, exec (.ldMemVx x) s = .next t ∧
        (∀ r : Reg, r ≤ x → t.readByte (s.dataAddr r.val) = s.reg r) ∧
        MemUnchangedOutside (s.dataAddr 0) (x.val + 1) s t ∧ t.pc = s.pc + 2 ∧
        RegsUnchangedBut [] s t ∧ UnchangedBut [.mem] s t) ∧
    (s.params.memSize ≤ s.i.toNat + x.val →
      exec (.ldMemVx x) s =
        .next (FaultsTo s .memoryOutOfBounds (regImmWord 0xF x 0x55) (max s.i.toNat s.params.memSize)))

/-- R185: `FX65` loads `V[0] .. V[x]` from `I .. I+x` and no other register, or faults when one would be out of memory. -/
def Obligations.LoadRegistersReadsV0ToVx : Prop :=
  ∀ (x : Reg) (s : State),
    EncodedAs (.ldVxMem x) (regImmWord 0xF x 0x65) ∧
    (s.i.toNat + x.val < s.params.memSize →
      ∃ t, exec (.ldVxMem x) s = .next t ∧
        (∀ r : Reg, r ≤ x → t.reg r = s.readByte (s.dataAddr r.val)) ∧
        (∀ r : Reg, x < r → t.reg r = s.reg r) ∧ t.pc = s.pc + 2 ∧ UnchangedBut [] s t) ∧
    (s.params.memSize ≤ s.i.toNat + x.val →
      exec (.ldVxMem x) s =
        .next (FaultsTo s .memoryOutOfBounds (regImmWord 0xF x 0x65) (max s.i.toNat s.params.memSize)))

/-- §8 of the source (S11; R184, R185): what `FX55` stored, an `FX65` with the same `x` and `I` loads back, whatever the
registers and the instruction pointer held in between; `I` is unchanged. -/
def Obligations.LoadAfterStoreRestoresRegisters : Prop :=
  ∀ (x : Reg) (s t : State) (v : Vector Byte 16) (pc : Word),
    Memory.wf s.params.font s.params.memSize s.mem = true → s.i.toNat + x.val < s.params.memSize →
    exec (.ldMemVx x) s = .next t →
    ∃ u, exec (.ldVxMem x) { t with v := v, pc := pc } = .next u ∧ u.i = s.i ∧
      ∀ r : Reg, u.reg r = if r ≤ x then s.reg r else v[r]

/-! ### Display -/

/-- R200: `00E0` turns every cell off and calls `Surface.clear()` once. -/
def Obligations.ClearScreenTurnsEveryCellOff : Prop :=
  EncodedAs .cls 0x00E0 ∧
  ∀ s : State, ∃ t, exec .cls s = .next t ∧ (∀ x y, t.display.cell x y = false) ∧ t.out = s.out ++ [.clear] ∧
    t.pc = s.pc + 2 ∧ RegsUnchangedBut [] s t ∧ UnchangedBut [.display, .out] s t

/-- R201 to R204: a `DXYN` toggles exactly the cells of the framebuffer under a set sprite bit, sets `VF` to 1 if one of
them was on and else to 0, and notifies the Surface of each in loop order; a row address out of memory faults first. -/
def Obligations.DrawTogglesTheCellsUnderTheSprite : Prop :=
  ∀ (x y : Reg) (n : RowCount) (s : State),
    let x0 := (s.reg x).toNat
    let y0 := (s.reg y).toNat
    EncodedAs (.drw x y n) (regRegWord 0xD x y (BitVec.ofFin n)) ∧
    (n.val = 0 ∨ s.i.toNat + n.val - 1 < s.params.memSize →
      ∃ t, exec (.drw x y n) s = .next t ∧
        (∀ cx cy, cx < 64 → cy < 32 →
          t.display.cell cx cy = (s.display.cell cx cy ^^ s.spriteBit x0 y0 n.val cx cy)) ∧
        (s.spriteCollides x0 y0 n.val → t.reg flagReg = 1) ∧ (¬ s.spriteCollides x0 y0 n.val → t.reg flagReg = 0) ∧
        t.out = s.out ++ s.spriteCalls x0 y0 n.val ∧ t.pc = s.pc + 2 ∧
        RegsUnchangedBut [flagReg] s t ∧ UnchangedBut [.display, .out] s t) ∧
    (n.val > 0 → s.params.memSize ≤ s.i.toNat + n.val - 1 →
      exec (.drw x y n) s =
        .next (FaultsTo s .memoryOutOfBounds (regRegWord 0xD x y (BitVec.ofFin n)) (max s.i.toNat s.params.memSize)))

/-- §8 of the source (S13; R201, R203): the same sprite drawn twice at the same place leaves the framebuffer as it was, and
the second draw reports a collision if the sprite covers a cell that was off at first. "The same place": the first draw's
flag has not changed a coordinate, which it can only with `x = F` or `y = F`. -/
def Obligations.DrawingTwiceRestoresTheFramebuffer : Prop :=
  ∀ (x y : Reg) (n : RowCount) (s t u : State), n.val = 0 ∨ s.i.toNat + n.val - 1 < s.params.memSize →
    exec (.drw x y n) s = .next t → t.reg x = s.reg x → t.reg y = s.reg y → exec (.drw x y n) t = .next u →
    u.display = s.display ∧
    ((∃ cx cy, cx < 64 ∧ cy < 32 ∧ s.spriteBit (s.reg x).toNat (s.reg y).toNat n.val cx cy = true ∧
      s.display.cell cx cy = false) → u.reg flagReg = 1)

/-! ### Key input and timers -/

/-- R220, R221, R222: the skips on a key; a value above 15 faults with no state changed. -/
def Obligations.SkipsOnKeys : Prop :=
  ∀ (x : Reg) (s : State),
    EncodedAs (.skp x) (regImmWord 0xE x 0x9E) ∧ EncodedAs (.sknp x) (regImmWord 0xE x 0xA1) ∧
    (∀ k : Key, (s.reg x).toNat = k.val →
      (∃ t, exec (.skp x) s = .next t ∧ t.pc = (if s.pressed[k] = true then s.pc + 4 else s.pc + 2) ∧
        RegsUnchangedBut [] s t ∧ UnchangedBut [] s t) ∧
      (∃ t, exec (.sknp x) s = .next t ∧ t.pc = (if s.pressed[k] = false then s.pc + 4 else s.pc + 2) ∧
        RegsUnchangedBut [] s t ∧ UnchangedBut [] s t)) ∧
    ((s.reg x).toNat > 15 →
      exec (.skp x) s = .next (FaultsTo s .keyIndexOutOfRange (regImmWord 0xE x 0x9E) (s.reg x).toNat) ∧
      exec (.sknp x) s = .next (FaultsTo s .keyIndexOutOfRange (regImmWord 0xE x 0xA1) (s.reg x).toNat))

/-- R223, R225, R226: the timer accesses. -/
def Obligations.TimerReadsAndWrites : Prop :=
  ∀ (x : Reg) (s : State),
    EncodedAs (.ldVxDT x) (regImmWord 0xF x 0x07) ∧ EncodedAs (.ldDTVx x) (regImmWord 0xF x 0x15) ∧
    EncodedAs (.ldSTVx x) (regImmWord 0xF x 0x18) ∧
    (∃ t, exec (.ldVxDT x) s = .next t ∧ t.reg x = s.dt ∧ t.pc = s.pc + 2 ∧
      RegsUnchangedBut [x] s t ∧ UnchangedBut [] s t) ∧
    (∃ t, exec (.ldDTVx x) s = .next t ∧ t.dt = s.reg x ∧ t.pc = s.pc + 2 ∧
      RegsUnchangedBut [] s t ∧ UnchangedBut [.dt] s t) ∧
    (∃ t, exec (.ldSTVx x) s = .next t ∧ t.st = s.reg x ∧ t.pc = s.pc + 2 ∧
      RegsUnchangedBut [] s t ∧ UnchangedBut [.st] s t)

/-- R224: `FX0A` stays and suspends the batch while the latch is empty; a latched key is consumed into `V[x]`. -/
def Obligations.WaitForKeySuspendsOrConsumes : Prop :=
  ∀ (x : Reg) (s : State),
    EncodedAs (.ldVxK x) (regImmWord 0xF x 0x0A) ∧
    (s.latch = none → ∃ t, exec (.ldVxK x) s = .next t ∧ t.suspend = true ∧ t.pc = s.pc ∧
      RegsUnchangedBut [] s t ∧ UnchangedBut [.suspend] s t) ∧
    (∀ k, s.latch = some k → ∃ t, exec (.ldVxK x) s = .next t ∧ (t.reg x).toNat = k.val ∧ t.latch = none ∧
      t.pc = s.pc + 2 ∧ RegsUnchangedBut [x] s t ∧ UnchangedBut [.latch] s t)

/-- §8 of the source (S14; R224, R253): an `FX0A` with an empty latch ends its batch at once with `pc` where it was, so no
number of ticks without a latched key moves `pc`. -/
def Obligations.WaitingCoreStaysAtItsFX0A : Prop :=
  ∀ (s : State) (x : Reg), s.dispatching → s.pc.toNat + 1 < s.params.memSize → decode s.fetchWord = .ok (.ldVxK x) →
    s.latch = none → s.quitPending = false → s.events.headD [] = [] →
    ∃ t u, step s = .next t ∧ t.inBatch = false ∧ t.count = s.count + 1 ∧ t.pc = s.pc ∧
      step t = .next u ∧ u.dispatching ∧ u.pc = s.pc ∧ u.fetchWord = s.fetchWord ∧ u.latch = none ∧
      u.dt.toNat = s.dt.toNat - 1
end

