-- ==== Sys2Proof/Laws/State.lean ====
section
/-! SUPPORT. One lemma per field and per state update, and one for each accessor an update leaves alone, so that no later
proof unfolds an update of the record. -/

namespace Sys2Proof.Machine

/-! ### `advance` -/

section
variable (s : State)

@[simp] theorem State.advance_params : s.advance.params = s.params := rfl
@[simp] theorem State.advance_v : s.advance.v = s.v := rfl
@[simp] theorem State.advance_i : s.advance.i = s.i := rfl
@[simp] theorem State.advance_pc : s.advance.pc = s.pc + 2 := rfl
@[simp] theorem State.advance_stack : s.advance.stack = s.stack := rfl
@[simp] theorem State.advance_dt : s.advance.dt = s.dt := rfl
@[simp] theorem State.advance_st : s.advance.st = s.st := rfl
@[simp] theorem State.advance_display : s.advance.display = s.display := rfl
@[simp] theorem State.advance_pressed : s.advance.pressed = s.pressed := rfl
@[simp] theorem State.advance_latch : s.advance.latch = s.latch := rfl
@[simp] theorem State.advance_run : s.advance.run = s.run := rfl
@[simp] theorem State.advance_quitPending : s.advance.quitPending = s.quitPending := rfl
@[simp] theorem State.advance_mem : s.advance.mem = s.mem := rfl
@[simp] theorem State.advance_count : s.advance.count = s.count := rfl
@[simp] theorem State.advance_suspend : s.advance.suspend = s.suspend := rfl
@[simp] theorem State.advance_romPort : s.advance.romPort = s.romPort := rfl
@[simp] theorem State.advance_events : s.advance.events = s.events := rfl
@[simp] theorem State.advance_draws : s.advance.draws = s.draws := rfl
@[simp] theorem State.advance_out : s.advance.out = s.out := rfl
@[simp] theorem State.advance_reg (r : Reg) : s.advance.reg r = s.reg r := rfl
@[simp] theorem State.advance_readByte (b : Nat) : s.advance.readByte b = s.readByte b := rfl

end

/-! ### `skipIf` -/

section
variable (s : State) (c : Bool)

@[simp] theorem State.skipIf_params : (s.skipIf c).params = s.params := rfl
@[simp] theorem State.skipIf_v : (s.skipIf c).v = s.v := rfl
@[simp] theorem State.skipIf_i : (s.skipIf c).i = s.i := rfl
@[simp] theorem State.skipIf_pc : (s.skipIf c).pc = if c then s.pc + 4 else s.pc + 2 := rfl
@[simp] theorem State.skipIf_stack : (s.skipIf c).stack = s.stack := rfl
@[simp] theorem State.skipIf_dt : (s.skipIf c).dt = s.dt := rfl
@[simp] theorem State.skipIf_st : (s.skipIf c).st = s.st := rfl
@[simp] theorem State.skipIf_display : (s.skipIf c).display = s.display := rfl
@[simp] theorem State.skipIf_pressed : (s.skipIf c).pressed = s.pressed := rfl
@[simp] theorem State.skipIf_latch : (s.skipIf c).latch = s.latch := rfl
@[simp] theorem State.skipIf_run : (s.skipIf c).run = s.run := rfl
@[simp] theorem State.skipIf_quitPending : (s.skipIf c).quitPending = s.quitPending := rfl
@[simp] theorem State.skipIf_mem : (s.skipIf c).mem = s.mem := rfl
@[simp] theorem State.skipIf_count : (s.skipIf c).count = s.count := rfl
@[simp] theorem State.skipIf_suspend : (s.skipIf c).suspend = s.suspend := rfl
@[simp] theorem State.skipIf_romPort : (s.skipIf c).romPort = s.romPort := rfl
@[simp] theorem State.skipIf_events : (s.skipIf c).events = s.events := rfl
@[simp] theorem State.skipIf_draws : (s.skipIf c).draws = s.draws := rfl
@[simp] theorem State.skipIf_out : (s.skipIf c).out = s.out := rfl
@[simp] theorem State.skipIf_reg (r : Reg) : (s.skipIf c).reg r = s.reg r := rfl
@[simp] theorem State.skipIf_readByte (b : Nat) : (s.skipIf c).readByte b = s.readByte b := rfl

end

/-! ### `jumpTo` -/

section
variable (s : State) (a : Word)

@[simp] theorem State.jumpTo_params : (s.jumpTo a).params = s.params := rfl
@[simp] theorem State.jumpTo_v : (s.jumpTo a).v = s.v := rfl
@[simp] theorem State.jumpTo_i : (s.jumpTo a).i = s.i := rfl
@[simp] theorem State.jumpTo_pc : (s.jumpTo a).pc = a := rfl
@[simp] theorem State.jumpTo_stack : (s.jumpTo a).stack = s.stack := rfl
@[simp] theorem State.jumpTo_dt : (s.jumpTo a).dt = s.dt := rfl
@[simp] theorem State.jumpTo_st : (s.jumpTo a).st = s.st := rfl
@[simp] theorem State.jumpTo_display : (s.jumpTo a).display = s.display := rfl
@[simp] theorem State.jumpTo_pressed : (s.jumpTo a).pressed = s.pressed := rfl
@[simp] theorem State.jumpTo_latch : (s.jumpTo a).latch = s.latch := rfl
@[simp] theorem State.jumpTo_run : (s.jumpTo a).run = s.run := rfl
@[simp] theorem State.jumpTo_quitPending : (s.jumpTo a).quitPending = s.quitPending := rfl
@[simp] theorem State.jumpTo_mem : (s.jumpTo a).mem = s.mem := rfl
@[simp] theorem State.jumpTo_count : (s.jumpTo a).count = s.count := rfl
@[simp] theorem State.jumpTo_suspend : (s.jumpTo a).suspend = s.suspend := rfl
@[simp] theorem State.jumpTo_romPort : (s.jumpTo a).romPort = s.romPort := rfl
@[simp] theorem State.jumpTo_events : (s.jumpTo a).events = s.events := rfl
@[simp] theorem State.jumpTo_draws : (s.jumpTo a).draws = s.draws := rfl
@[simp] theorem State.jumpTo_out : (s.jumpTo a).out = s.out := rfl
@[simp] theorem State.jumpTo_reg (r : Reg) : (s.jumpTo a).reg r = s.reg r := rfl
@[simp] theorem State.jumpTo_readByte (b : Nat) : (s.jumpTo a).readByte b = s.readByte b := rfl

end

/-! ### `push` -/

section
variable (s : State) (a : Word)

@[simp] theorem State.push_params : (s.push a).params = s.params := rfl
@[simp] theorem State.push_v : (s.push a).v = s.v := rfl
@[simp] theorem State.push_i : (s.push a).i = s.i := rfl
@[simp] theorem State.push_pc : (s.push a).pc = s.pc := rfl
@[simp] theorem State.push_stack : (s.push a).stack = s.stack ++ [a] := rfl
@[simp] theorem State.push_dt : (s.push a).dt = s.dt := rfl
@[simp] theorem State.push_st : (s.push a).st = s.st := rfl
@[simp] theorem State.push_display : (s.push a).display = s.display := rfl
@[simp] theorem State.push_pressed : (s.push a).pressed = s.pressed := rfl
@[simp] theorem State.push_latch : (s.push a).latch = s.latch := rfl
@[simp] theorem State.push_run : (s.push a).run = s.run := rfl
@[simp] theorem State.push_quitPending : (s.push a).quitPending = s.quitPending := rfl
@[simp] theorem State.push_mem : (s.push a).mem = s.mem := rfl
@[simp] theorem State.push_count : (s.push a).count = s.count := rfl
@[simp] theorem State.push_suspend : (s.push a).suspend = s.suspend := rfl
@[simp] theorem State.push_romPort : (s.push a).romPort = s.romPort := rfl
@[simp] theorem State.push_events : (s.push a).events = s.events := rfl
@[simp] theorem State.push_draws : (s.push a).draws = s.draws := rfl
@[simp] theorem State.push_out : (s.push a).out = s.out := rfl
@[simp] theorem State.push_reg (r : Reg) : (s.push a).reg r = s.reg r := rfl
@[simp] theorem State.push_readByte (b : Nat) : (s.push a).readByte b = s.readByte b := rfl

end

/-! ### `dropTop` -/

section
variable (s : State)

@[simp] theorem State.dropTop_params : s.dropTop.params = s.params := rfl
@[simp] theorem State.dropTop_v : s.dropTop.v = s.v := rfl
@[simp] theorem State.dropTop_i : s.dropTop.i = s.i := rfl
@[simp] theorem State.dropTop_pc : s.dropTop.pc = s.pc := rfl
@[simp] theorem State.dropTop_stack : s.dropTop.stack = s.stack.dropLast := rfl
@[simp] theorem State.dropTop_dt : s.dropTop.dt = s.dt := rfl
@[simp] theorem State.dropTop_st : s.dropTop.st = s.st := rfl
@[simp] theorem State.dropTop_display : s.dropTop.display = s.display := rfl
@[simp] theorem State.dropTop_pressed : s.dropTop.pressed = s.pressed := rfl
@[simp] theorem State.dropTop_latch : s.dropTop.latch = s.latch := rfl
@[simp] theorem State.dropTop_run : s.dropTop.run = s.run := rfl
@[simp] theorem State.dropTop_quitPending : s.dropTop.quitPending = s.quitPending := rfl
@[simp] theorem State.dropTop_mem : s.dropTop.mem = s.mem := rfl
@[simp] theorem State.dropTop_count : s.dropTop.count = s.count := rfl
@[simp] theorem State.dropTop_suspend : s.dropTop.suspend = s.suspend := rfl
@[simp] theorem State.dropTop_romPort : s.dropTop.romPort = s.romPort := rfl
@[simp] theorem State.dropTop_events : s.dropTop.events = s.events := rfl
@[simp] theorem State.dropTop_draws : s.dropTop.draws = s.draws := rfl
@[simp] theorem State.dropTop_out : s.dropTop.out = s.out := rfl
@[simp] theorem State.dropTop_reg (r : Reg) : s.dropTop.reg r = s.reg r := rfl
@[simp] theorem State.dropTop_readByte (b : Nat) : s.dropTop.readByte b = s.readByte b := rfl

end

/-! ### `emit` -/

section
variable (s : State) (o : List Output)

@[simp] theorem State.emit_params : (s.emit o).params = s.params := rfl
@[simp] theorem State.emit_v : (s.emit o).v = s.v := rfl
@[simp] theorem State.emit_i : (s.emit o).i = s.i := rfl
@[simp] theorem State.emit_pc : (s.emit o).pc = s.pc := rfl
@[simp] theorem State.emit_stack : (s.emit o).stack = s.stack := rfl
@[simp] theorem State.emit_dt : (s.emit o).dt = s.dt := rfl
@[simp] theorem State.emit_st : (s.emit o).st = s.st := rfl
@[simp] theorem State.emit_display : (s.emit o).display = s.display := rfl
@[simp] theorem State.emit_pressed : (s.emit o).pressed = s.pressed := rfl
@[simp] theorem State.emit_latch : (s.emit o).latch = s.latch := rfl
@[simp] theorem State.emit_run : (s.emit o).run = s.run := rfl
@[simp] theorem State.emit_quitPending : (s.emit o).quitPending = s.quitPending := rfl
@[simp] theorem State.emit_mem : (s.emit o).mem = s.mem := rfl
@[simp] theorem State.emit_count : (s.emit o).count = s.count := rfl
@[simp] theorem State.emit_suspend : (s.emit o).suspend = s.suspend := rfl
@[simp] theorem State.emit_romPort : (s.emit o).romPort = s.romPort := rfl
@[simp] theorem State.emit_events : (s.emit o).events = s.events := rfl
@[simp] theorem State.emit_draws : (s.emit o).draws = s.draws := rfl
@[simp] theorem State.emit_out : (s.emit o).out = s.out ++ o := rfl
@[simp] theorem State.emit_reg (r : Reg) : (s.emit o).reg r = s.reg r := rfl
@[simp] theorem State.emit_readByte (b : Nat) : (s.emit o).readByte b = s.readByte b := rfl

end

/-! ### `raiseFault` -/

section
variable (s : State) (c : FaultCode) (w : Word) (n : Nat)

@[simp] theorem State.raiseFault_params : (s.raiseFault c w n).params = s.params := rfl
@[simp] theorem State.raiseFault_v : (s.raiseFault c w n).v = s.v := rfl
@[simp] theorem State.raiseFault_i : (s.raiseFault c w n).i = s.i := rfl
@[simp] theorem State.raiseFault_pc : (s.raiseFault c w n).pc = s.pc := rfl
@[simp] theorem State.raiseFault_stack : (s.raiseFault c w n).stack = s.stack := rfl
@[simp] theorem State.raiseFault_dt : (s.raiseFault c w n).dt = s.dt := rfl
@[simp] theorem State.raiseFault_st : (s.raiseFault c w n).st = s.st := rfl
@[simp] theorem State.raiseFault_display : (s.raiseFault c w n).display = s.display := rfl
@[simp] theorem State.raiseFault_pressed : (s.raiseFault c w n).pressed = s.pressed := rfl
@[simp] theorem State.raiseFault_latch : (s.raiseFault c w n).latch = s.latch := rfl
@[simp] theorem State.raiseFault_run : (s.raiseFault c w n).run = .faulted { code := c, ins := w, pc := s.pc, info := n } := rfl
@[simp] theorem State.raiseFault_quitPending : (s.raiseFault c w n).quitPending = s.quitPending := rfl
@[simp] theorem State.raiseFault_mem : (s.raiseFault c w n).mem = s.mem := rfl
@[simp] theorem State.raiseFault_count : (s.raiseFault c w n).count = s.count := rfl
@[simp] theorem State.raiseFault_suspend : (s.raiseFault c w n).suspend = s.suspend := rfl
@[simp] theorem State.raiseFault_romPort : (s.raiseFault c w n).romPort = s.romPort := rfl
@[simp] theorem State.raiseFault_events : (s.raiseFault c w n).events = s.events := rfl
@[simp] theorem State.raiseFault_draws : (s.raiseFault c w n).draws = s.draws := rfl
@[simp] theorem State.raiseFault_out : (s.raiseFault c w n).out = s.out := rfl
@[simp] theorem State.raiseFault_reg (r : Reg) : (s.raiseFault c w n).reg r = s.reg r := rfl
@[simp] theorem State.raiseFault_readByte (b : Nat) : (s.raiseFault c w n).readByte b = s.readByte b := rfl

end

/-! ### `halt` -/

section
variable (s : State)

@[simp] theorem State.halt_params : s.halt.params = s.params := rfl
@[simp] theorem State.halt_v : s.halt.v = s.v := rfl
@[simp] theorem State.halt_i : s.halt.i = s.i := rfl
@[simp] theorem State.halt_pc : s.halt.pc = s.pc := rfl
@[simp] theorem State.halt_stack : s.halt.stack = s.stack := rfl
@[simp] theorem State.halt_dt : s.halt.dt = s.dt := rfl
@[simp] theorem State.halt_st : s.halt.st = s.st := rfl
@[simp] theorem State.halt_display : s.halt.display = s.display := rfl
@[simp] theorem State.halt_pressed : s.halt.pressed = s.pressed := rfl
@[simp] theorem State.halt_latch : s.halt.latch = s.latch := rfl
@[simp] theorem State.halt_run : s.halt.run = .halted := rfl
@[simp] theorem State.halt_quitPending : s.halt.quitPending = s.quitPending := rfl
@[simp] theorem State.halt_mem : s.halt.mem = s.mem := rfl
@[simp] theorem State.halt_count : s.halt.count = s.count := rfl
@[simp] theorem State.halt_suspend : s.halt.suspend = s.suspend := rfl
@[simp] theorem State.halt_romPort : s.halt.romPort = s.romPort := rfl
@[simp] theorem State.halt_events : s.halt.events = s.events := rfl
@[simp] theorem State.halt_draws : s.halt.draws = s.draws := rfl
@[simp] theorem State.halt_out : s.halt.out = s.out := rfl
@[simp] theorem State.halt_reg (r : Reg) : s.halt.reg r = s.reg r := rfl
@[simp] theorem State.halt_readByte (b : Nat) : s.halt.readByte b = s.readByte b := rfl

end

/-! ### `storeBytes` -/

section
variable (s : State) (a : Nat) (bs : List Byte)

@[simp] theorem State.storeBytes_params : (s.storeBytes a bs).params = s.params := rfl
@[simp] theorem State.storeBytes_v : (s.storeBytes a bs).v = s.v := rfl
@[simp] theorem State.storeBytes_i : (s.storeBytes a bs).i = s.i := rfl
@[simp] theorem State.storeBytes_pc : (s.storeBytes a bs).pc = s.pc := rfl
@[simp] theorem State.storeBytes_stack : (s.storeBytes a bs).stack = s.stack := rfl
@[simp] theorem State.storeBytes_dt : (s.storeBytes a bs).dt = s.dt := rfl
@[simp] theorem State.storeBytes_st : (s.storeBytes a bs).st = s.st := rfl
@[simp] theorem State.storeBytes_display : (s.storeBytes a bs).display = s.display := rfl
@[simp] theorem State.storeBytes_pressed : (s.storeBytes a bs).pressed = s.pressed := rfl
@[simp] theorem State.storeBytes_latch : (s.storeBytes a bs).latch = s.latch := rfl
@[simp] theorem State.storeBytes_run : (s.storeBytes a bs).run = s.run := rfl
@[simp] theorem State.storeBytes_quitPending : (s.storeBytes a bs).quitPending = s.quitPending := rfl
@[simp] theorem State.storeBytes_mem : (s.storeBytes a bs).mem = Memory.writeList s.params.font s.mem a bs := rfl
@[simp] theorem State.storeBytes_count : (s.storeBytes a bs).count = s.count := rfl
@[simp] theorem State.storeBytes_suspend : (s.storeBytes a bs).suspend = s.suspend := rfl
@[simp] theorem State.storeBytes_romPort : (s.storeBytes a bs).romPort = s.romPort := rfl
@[simp] theorem State.storeBytes_events : (s.storeBytes a bs).events = s.events := rfl
@[simp] theorem State.storeBytes_draws : (s.storeBytes a bs).draws = s.draws := rfl
@[simp] theorem State.storeBytes_out : (s.storeBytes a bs).out = s.out := rfl
@[simp] theorem State.storeBytes_reg (r : Reg) : (s.storeBytes a bs).reg r = s.reg r := rfl

end

/-! ### `setReg` -/

section
variable (s : State) (x : Reg) (b : Byte)

@[simp] theorem State.setReg_params : (s.setReg x b).params = s.params := rfl
@[simp] theorem State.setReg_v : (s.setReg x b).v = s.v.set x b := rfl
@[simp] theorem State.setReg_i : (s.setReg x b).i = s.i := rfl
@[simp] theorem State.setReg_pc : (s.setReg x b).pc = s.pc := rfl
@[simp] theorem State.setReg_stack : (s.setReg x b).stack = s.stack := rfl
@[simp] theorem State.setReg_dt : (s.setReg x b).dt = s.dt := rfl
@[simp] theorem State.setReg_st : (s.setReg x b).st = s.st := rfl
@[simp] theorem State.setReg_display : (s.setReg x b).display = s.display := rfl
@[simp] theorem State.setReg_pressed : (s.setReg x b).pressed = s.pressed := rfl
@[simp] theorem State.setReg_latch : (s.setReg x b).latch = s.latch := rfl
@[simp] theorem State.setReg_run : (s.setReg x b).run = s.run := rfl
@[simp] theorem State.setReg_quitPending : (s.setReg x b).quitPending = s.quitPending := rfl
@[simp] theorem State.setReg_mem : (s.setReg x b).mem = s.mem := rfl
@[simp] theorem State.setReg_count : (s.setReg x b).count = s.count := rfl
@[simp] theorem State.setReg_suspend : (s.setReg x b).suspend = s.suspend := rfl
@[simp] theorem State.setReg_romPort : (s.setReg x b).romPort = s.romPort := rfl
@[simp] theorem State.setReg_events : (s.setReg x b).events = s.events := rfl
@[simp] theorem State.setReg_draws : (s.setReg x b).draws = s.draws := rfl
@[simp] theorem State.setReg_out : (s.setReg x b).out = s.out := rfl
@[simp] theorem State.setReg_readByte (b : Nat) : (s.setReg x b).readByte b = s.readByte b := rfl

end

/-! ### `setI` -/

section
variable (s : State) (a : Word)

@[simp] theorem State.setI_params : (s.setI a).params = s.params := rfl
@[simp] theorem State.setI_v : (s.setI a).v = s.v := rfl
@[simp] theorem State.setI_i : (s.setI a).i = a := rfl
@[simp] theorem State.setI_pc : (s.setI a).pc = s.pc := rfl
@[simp] theorem State.setI_stack : (s.setI a).stack = s.stack := rfl
@[simp] theorem State.setI_dt : (s.setI a).dt = s.dt := rfl
@[simp] theorem State.setI_st : (s.setI a).st = s.st := rfl
@[simp] theorem State.setI_display : (s.setI a).display = s.display := rfl
@[simp] theorem State.setI_pressed : (s.setI a).pressed = s.pressed := rfl
@[simp] theorem State.setI_latch : (s.setI a).latch = s.latch := rfl
@[simp] theorem State.setI_run : (s.setI a).run = s.run := rfl
@[simp] theorem State.setI_quitPending : (s.setI a).quitPending = s.quitPending := rfl
@[simp] theorem State.setI_mem : (s.setI a).mem = s.mem := rfl
@[simp] theorem State.setI_count : (s.setI a).count = s.count := rfl
@[simp] theorem State.setI_suspend : (s.setI a).suspend = s.suspend := rfl
@[simp] theorem State.setI_romPort : (s.setI a).romPort = s.romPort := rfl
@[simp] theorem State.setI_events : (s.setI a).events = s.events := rfl
@[simp] theorem State.setI_draws : (s.setI a).draws = s.draws := rfl
@[simp] theorem State.setI_out : (s.setI a).out = s.out := rfl
@[simp] theorem State.setI_reg (r : Reg) : (s.setI a).reg r = s.reg r := rfl
@[simp] theorem State.setI_readByte (b : Nat) : (s.setI a).readByte b = s.readByte b := rfl

end

/-! ### `setFlag` -/

section
variable (s : State) (f : Bool)

@[simp] theorem State.setFlag_params : (s.setFlag f).params = s.params := rfl
@[simp] theorem State.setFlag_v : (s.setFlag f).v = s.v.set flagReg (flagByte f) := rfl
@[simp] theorem State.setFlag_i : (s.setFlag f).i = s.i := rfl
@[simp] theorem State.setFlag_pc : (s.setFlag f).pc = s.pc := rfl
@[simp] theorem State.setFlag_stack : (s.setFlag f).stack = s.stack := rfl
@[simp] theorem State.setFlag_dt : (s.setFlag f).dt = s.dt := rfl
@[simp] theorem State.setFlag_st : (s.setFlag f).st = s.st := rfl
@[simp] theorem State.setFlag_display : (s.setFlag f).display = s.display := rfl
@[simp] theorem State.setFlag_pressed : (s.setFlag f).pressed = s.pressed := rfl
@[simp] theorem State.setFlag_latch : (s.setFlag f).latch = s.latch := rfl
@[simp] theorem State.setFlag_run : (s.setFlag f).run = s.run := rfl
@[simp] theorem State.setFlag_quitPending : (s.setFlag f).quitPending = s.quitPending := rfl
@[simp] theorem State.setFlag_mem : (s.setFlag f).mem = s.mem := rfl
@[simp] theorem State.setFlag_count : (s.setFlag f).count = s.count := rfl
@[simp] theorem State.setFlag_suspend : (s.setFlag f).suspend = s.suspend := rfl
@[simp] theorem State.setFlag_romPort : (s.setFlag f).romPort = s.romPort := rfl
@[simp] theorem State.setFlag_events : (s.setFlag f).events = s.events := rfl
@[simp] theorem State.setFlag_draws : (s.setFlag f).draws = s.draws := rfl
@[simp] theorem State.setFlag_out : (s.setFlag f).out = s.out := rfl
@[simp] theorem State.setFlag_readByte (b : Nat) : (s.setFlag f).readByte b = s.readByte b := rfl

end

/-! ### `setRegFlag` -/

section
variable (s : State) (x : Reg) (b : Byte) (f : Bool)

@[simp] theorem State.setRegFlag_params : (s.setRegFlag x b f).params = s.params := rfl
@[simp] theorem State.setRegFlag_v : (s.setRegFlag x b f).v = (s.v.set x b).set flagReg (flagByte f) := rfl
@[simp] theorem State.setRegFlag_i : (s.setRegFlag x b f).i = s.i := rfl
@[simp] theorem State.setRegFlag_pc : (s.setRegFlag x b f).pc = s.pc := rfl
@[simp] theorem State.setRegFlag_stack : (s.setRegFlag x b f).stack = s.stack := rfl
@[simp] theorem State.setRegFlag_dt : (s.setRegFlag x b f).dt = s.dt := rfl
@[simp] theorem State.setRegFlag_st : (s.setRegFlag x b f).st = s.st := rfl
@[simp] theorem State.setRegFlag_display : (s.setRegFlag x b f).display = s.display := rfl
@[simp] theorem State.setRegFlag_pressed : (s.setRegFlag x b f).pressed = s.pressed := rfl
@[simp] theorem State.setRegFlag_latch : (s.setRegFlag x b f).latch = s.latch := rfl
@[simp] theorem State.setRegFlag_run : (s.setRegFlag x b f).run = s.run := rfl
@[simp] theorem State.setRegFlag_quitPending : (s.setRegFlag x b f).quitPending = s.quitPending := rfl
@[simp] theorem State.setRegFlag_mem : (s.setRegFlag x b f).mem = s.mem := rfl
@[simp] theorem State.setRegFlag_count : (s.setRegFlag x b f).count = s.count := rfl
@[simp] theorem State.setRegFlag_suspend : (s.setRegFlag x b f).suspend = s.suspend := rfl
@[simp] theorem State.setRegFlag_romPort : (s.setRegFlag x b f).romPort = s.romPort := rfl
@[simp] theorem State.setRegFlag_events : (s.setRegFlag x b f).events = s.events := rfl
@[simp] theorem State.setRegFlag_draws : (s.setRegFlag x b f).draws = s.draws := rfl
@[simp] theorem State.setRegFlag_out : (s.setRegFlag x b f).out = s.out := rfl
@[simp] theorem State.setRegFlag_readByte (b : Nat) : (s.setRegFlag x b f).readByte b = s.readByte b := rfl

end

end Sys2Proof.Machine
end

