-- ==== Sys2Proof/Laws/Encoding.lean ====
section
/-! SUPPORT. The fields of a word put together from fields, and a word put together again from its own fields (R91, R92). -/

namespace Sys2Proof

section
variable (op : BitVec 4) (x y : Reg) (sub : BitVec 4) (nn : Byte) (nnn : BitVec 12) (w : Word)

/-! ### The bits of each format -/

theorem bit_addrWord (k : Nat) :
    (addrWord op nnn).getLsbD k = if k < 12 then nnn.getLsbD k else op.getLsbD (k - 12) :=
  BitVec.getLsbD_append

theorem bit_regImmWord (k : Nat) :
    (regImmWord op x nn).getLsbD k =
      if k < 8 then nn.getLsbD k else if k < 12 then (BitVec.ofFin x : BitVec 4).getLsbD (k - 8)
      else op.getLsbD (k - 12) := by
  refine BitVec.getLsbD_append.trans ?_
  split
  · rfl
  · refine BitVec.getLsbD_append.trans ?_
    simp only [show (k - 8 < 4) = (k < 12) by (apply propext; omega), Nat.sub_sub]

theorem bit_regRegWord (k : Nat) :
    (regRegWord op x y sub).getLsbD k =
      if k < 4 then sub.getLsbD k else if k < 8 then (BitVec.ofFin y : BitVec 4).getLsbD (k - 4)
      else if k < 12 then (BitVec.ofFin x : BitVec 4).getLsbD (k - 8) else op.getLsbD (k - 12) := by
  refine BitVec.getLsbD_append.trans ?_
  split
  · rfl
  · refine BitVec.getLsbD_append.trans ?_
    simp only [show (k - 4 < 4) = (k < 8) by (apply propext; omega), Nat.sub_sub]
    split
    · rfl
    · refine BitVec.getLsbD_append.trans ?_
      simp only [show (k - 8 < 4) = (k < 12) by (apply propext; omega), Nat.sub_sub]

/-- A field is determined by its bits. -/
theorem extract_eq_of_bits {n start : Nat} {w : Word} {f : BitVec n}
    (h : ∀ k, k < n → w.getLsbD (start + k) = f.getLsbD k) : w.extractLsb' start n = f := by
  refine BitVec.eq_of_getLsbD_eq fun k hk => ?_
  rw [BitVec.getLsbD_extractLsb', h k hk]
  simp [hk]

/-! ### The fields of each format -/

@[simp] theorem fieldOp_addrWord : fieldOp (addrWord op nnn) = op :=
  extract_eq_of_bits fun k hk => by rw [bit_addrWord, if_neg (by omega)]; congr 1; omega

@[simp] theorem fieldNNN_addrWord : fieldNNN (addrWord op nnn) = nnn :=
  extract_eq_of_bits fun k hk => by rw [bit_addrWord, if_pos (by omega)]; congr 1; omega

@[simp] theorem fieldOp_regImmWord : fieldOp (regImmWord op x nn) = op :=
  extract_eq_of_bits fun k hk => by rw [bit_regImmWord, if_neg (by omega), if_neg (by omega)]; congr 1; omega

@[simp] theorem fieldX_regImmWord : fieldX (regImmWord op x nn) = x :=
  congrArg BitVec.toFin (extract_eq_of_bits fun k hk => by rw [bit_regImmWord, if_neg (by omega), if_pos (by omega)]; congr 1; omega)

@[simp] theorem fieldNN_regImmWord : fieldNN (regImmWord op x nn) = nn :=
  extract_eq_of_bits fun k hk => by rw [bit_regImmWord, if_pos (by omega)]; congr 1; omega

@[simp] theorem fieldOp_regRegWord : fieldOp (regRegWord op x y sub) = op :=
  extract_eq_of_bits fun k hk => by rw [bit_regRegWord, if_neg (by omega), if_neg (by omega), if_neg (by omega)]; congr 1; omega

@[simp] theorem fieldX_regRegWord : fieldX (regRegWord op x y sub) = x :=
  congrArg BitVec.toFin (extract_eq_of_bits fun k hk => by rw [bit_regRegWord, if_neg (by omega), if_neg (by omega), if_pos (by omega)]; congr 1; omega)

@[simp] theorem fieldY_regRegWord : fieldY (regRegWord op x y sub) = y :=
  congrArg BitVec.toFin (extract_eq_of_bits fun k hk => by rw [bit_regRegWord, if_neg (by omega), if_pos (by omega)]; congr 1; omega)

@[simp] theorem fieldSub_regRegWord : fieldSub (regRegWord op x y sub) = sub :=
  extract_eq_of_bits fun k hk => by rw [bit_regRegWord, if_pos (by omega)]; congr 1; omega

@[simp] theorem fieldN_regRegWord : fieldN (regRegWord op x y sub) = sub.toFin :=
  congrArg BitVec.toFin (extract_eq_of_bits fun k hk => by rw [bit_regRegWord, if_pos (by omega)]; congr 1; omega)

/-! ### A format under the opcode table's masks (R96) -/

theorem and_addrWord : addrWord op nnn &&& 0xF000#16 = addrWord op 0 := by
  rw [show 0xF000#16 = (BitVec.allOnes 4 ++ 0#12) by decide]
  refine BitVec.and_append.trans ?_
  simp only [BitVec.and_zero, BitVec.and_allOnes]
  rfl

theorem and_regImmWord : regImmWord op x nn &&& 0xF000#16 = regImmWord op 0 0 := by
  rw [show 0xF000#16 = (BitVec.allOnes 4 ++ 0#4 ++ 0#8) by decide]
  refine BitVec.and_append.trans ?_
  rw [BitVec.and_append]
  simp only [BitVec.and_zero, BitVec.and_allOnes]
  rfl

theorem and_regSubWord : regImmWord op x nn &&& 0xF0FF#16 = regImmWord op 0 nn := by
  rw [show 0xF0FF#16 = (BitVec.allOnes 4 ++ 0#4 ++ BitVec.allOnes 8) by decide]
  refine BitVec.and_append.trans ?_
  rw [BitVec.and_append]
  simp only [BitVec.and_zero, BitVec.and_allOnes]
  rfl

theorem and_regRegWord : regRegWord op x y sub &&& 0xF00F#16 = regRegWord op 0 0 sub := by
  rw [show 0xF00F#16 = (BitVec.allOnes 4 ++ 0#4 ++ 0#4 ++ BitVec.allOnes 4) by decide]
  refine BitVec.and_append.trans ?_
  rw [BitVec.and_append, BitVec.and_append]
  simp only [BitVec.and_zero, BitVec.and_allOnes]
  rfl

theorem and_drawWord : regRegWord op x y sub &&& 0xF000#16 = regRegWord op 0 0 0 := by
  rw [show 0xF000#16 = (BitVec.allOnes 4 ++ 0#4 ++ 0#4 ++ 0#4) by decide]
  refine BitVec.and_append.trans ?_
  rw [BitVec.and_append, BitVec.and_append]
  simp only [BitVec.and_zero, BitVec.and_allOnes]
  rfl

/-! ### The fields a mask fixes (R96): where a row's mask is all ones, a matching word has the row's field -/

theorem extract_of_masked {n start : Nat} {w m v : Word} (h : w &&& m = v)
    (hm : m.extractLsb' start n = BitVec.allOnes n) : w.extractLsb' start n = v.extractLsb' start n := by
  rw [← h, BitVec.extractLsb'_and, hm, BitVec.and_allOnes]

theorem fieldOp_of_masked {w m v : Word} (h : w &&& m = v) (hm : fieldOp m = BitVec.allOnes 4) : fieldOp w = fieldOp v :=
  extract_of_masked h hm

theorem fieldSub_of_masked {w m v : Word} (h : w &&& m = v) (hm : fieldSub m = BitVec.allOnes 4) : fieldSub w = fieldSub v :=
  extract_of_masked h hm

theorem fieldNN_of_masked {w m v : Word} (h : w &&& m = v) (hm : fieldNN m = BitVec.allOnes 8) : fieldNN w = fieldNN v :=
  extract_of_masked h hm

theorem fieldNNN_of_masked {w m v : Word} (h : w &&& m = v) (hm : fieldNNN m = BitVec.allOnes 12) : fieldNNN w = fieldNNN v :=
  extract_of_masked h hm

/-! ### A word from its fields -/

theorem addrWord_fields : addrWord (fieldOp w) (fieldNNN w) = w := by
  refine BitVec.eq_of_getLsbD_eq fun k hk => ?_
  rw [bit_addrWord, fieldOp, fieldNNN, BitVec.getLsbD_extractLsb', BitVec.getLsbD_extractLsb']
  split
  · next h => simp [h]
  · next h => simp [show 12 + (k - 12) = k by omega, show k - 12 < 4 by omega]

theorem regImmWord_fields : regImmWord (fieldOp w) (fieldX w) (fieldNN w) = w := by
  refine BitVec.eq_of_getLsbD_eq fun k hk => ?_
  rw [bit_regImmWord, fieldOp, fieldNN, fieldX, BitVec.ofFin_toFin]
  simp only [BitVec.getLsbD_extractLsb']
  split
  · next h => simp [h]
  · split
    · next h h' => simp [show 8 + (k - 8) = k by omega, show k - 8 < 4 by omega]
    · next h h' => simp [show 12 + (k - 12) = k by omega, show k - 12 < 4 by omega]

theorem regRegWord_fields : regRegWord (fieldOp w) (fieldX w) (fieldY w) (fieldSub w) = w := by
  refine BitVec.eq_of_getLsbD_eq fun k hk => ?_
  rw [bit_regRegWord, fieldOp, fieldSub, fieldX, fieldY, BitVec.ofFin_toFin, BitVec.ofFin_toFin]
  simp only [BitVec.getLsbD_extractLsb']
  split
  · next h => simp [h]
  · split
    · next h h' => simp [show 4 + (k - 4) = k by omega, show k - 4 < 4 by omega]
    · split
      · next h h' h'' => simp [show 8 + (k - 8) = k by omega, show k - 8 < 4 by omega]
      · next h h' h'' => simp [show 12 + (k - 12) = k by omega, show k - 12 < 4 by omega]

/-- A word is its two bytes in memory order (R67, R68). -/
theorem wordOfBytes_bytes : wordOfBytes (highByte w) (lowByte w) = w := by
  refine BitVec.eq_of_getLsbD_eq fun k hk => ?_
  refine BitVec.getLsbD_append.trans ?_
  simp only [highByte, lowByte, BitVec.getLsbD_extractLsb']
  split
  · next h => simp [h]
  · next h => simp [show 8 + (k - 8) = k by omega, show k - 8 < 8 by omega]

end

/-- No word belongs to two rows: any two differ in a bit that both fix (R95). -/
theorem opcodeRows_disjoint :
    opcodeRows.Pairwise (fun r q => r.1 &&& q.1 &&& (r.2 ^^^ q.2) ≠ 0) := by decide

end Sys2Proof
end

