-- ==== Sys2Proof/Laws/Memory.lean ====
section
/-! SUPPORT. Memory: a read after a write, and every write keeps the canonical form. -/

namespace Sys2Proof.Machine

theorem Memory.wf_cons {font : List Byte} {size a : Nat} {b : Byte} {rest : Memory} :
    Memory.wf font size ((a, b) :: rest) = true ↔
      a < size ∧ b ≠ resetByte font a ∧ (∀ c ∈ rest, a < c.1) ∧ Memory.wf font size rest = true := by
  simp [Memory.wf, and_assoc]

/-- An address below every listed one reads as its reset contents. -/
theorem Memory.read_of_lt {font : List Byte} {a : Nat} {m : Memory} (h : ∀ c ∈ m, a < c.1) :
    Memory.read font m a = resetByte font a := by
  induction m with
  | nil => rfl
  | cons c rest ih =>
    obtain ⟨k, b⟩ := c
    have hk : a < k := h (k, b) (by simp)
    simp only [Memory.read, if_neg (by omega : ¬ k = a)]
    exact ih fun c hc => h c (by simp [hc])

theorem Memory.read_consCell {font : List Byte} {a : Nat} {b : Byte} {rest : Memory} (h : ∀ c ∈ rest, a < c.1)
    (c : Nat) :
    Memory.read font (Memory.consCell font a b rest) c = if c = a then b else Memory.read font rest c := by
  unfold Memory.consCell
  by_cases hb : b = resetByte font a
  · rw [if_pos hb]
    split
    · next hc => rw [hc, Memory.read_of_lt h, hb]
    · rfl
  · rw [if_neg hb]
    simp only [Memory.read]
    by_cases hc : c = a
    · simp [hc]
    · rw [if_neg hc, if_neg (fun h => hc h.symm)]

/-- A read after a write: the value written at that address, the old value everywhere else (R63, R73). -/
theorem Memory.read_write {font : List Byte} {size : Nat} {m : Memory} (h : Memory.wf font size m = true)
    (a : Nat) (b : Byte) (c : Nat) :
    Memory.read font (Memory.write font m a b) c = if c = a then b else Memory.read font m c := by
  induction m with
  | nil => exact Memory.read_consCell (by simp) c
  | cons cell rest ih =>
    obtain ⟨k, d⟩ := cell
    obtain ⟨-, -, hlt, hrest⟩ := Memory.wf_cons.1 h
    simp only [Memory.write]
    split
    · next hak =>
      refine Memory.read_consCell (fun e he => ?_) c
      rcases List.mem_cons.1 he with rfl | he
      · exact hak
      · exact Nat.lt_trans hak (hlt e he)
    · split
      · next hak =>
        subst hak
        rw [Memory.read_consCell hlt]
        by_cases hc : c = a
        · simp [hc]
        · simp only [if_neg hc, Memory.read, if_neg (fun h : a = c => hc h.symm)]
      · next hne hak =>
        simp only [Memory.read, ih hrest]
        by_cases hk : k = c
        · simp only [if_pos hk, if_neg (by omega : ¬ c = a)]
        · simp [hk]

/-- The addresses a write lists are those listed before and the one written. -/
theorem Memory.mem_write {font : List Byte} {m : Memory} {a : Nat} {b : Byte} {c : Host.Cell}
    (h : c ∈ Memory.write font m a b) : c.1 = a ∨ c ∈ m := by
  induction m with
  | nil =>
    simp only [Memory.write, Memory.consCell] at h
    split at h <;> simp_all
  | cons cell rest ih =>
    obtain ⟨k, d⟩ := cell
    simp only [Memory.write, Memory.consCell] at h
    split at h
    · split at h
      · exact .inr h
      · rcases List.mem_cons.1 h with rfl | h
        · exact .inl rfl
        · exact .inr h
    · split at h
      · split at h
        · exact .inr (List.mem_cons_of_mem _ h)
        · rcases List.mem_cons.1 h with rfl | h
          · exact .inl rfl
          · exact .inr (List.mem_cons_of_mem _ h)
      · rcases List.mem_cons.1 h with rfl | h
        · exact .inr (by simp)
        · exact (ih h).imp_right (List.mem_cons_of_mem _)

theorem Memory.wf_consCell {font : List Byte} {size a : Nat} {b : Byte} {rest : Memory} (ha : a < size)
    (hlt : ∀ c ∈ rest, a < c.1) (h : Memory.wf font size rest = true) :
    Memory.wf font size (Memory.consCell font a b rest) = true := by
  unfold Memory.consCell
  split
  · exact h
  · next hb => exact Memory.wf_cons.2 ⟨ha, hb, hlt, h⟩

/-- A write inside memory keeps the canonical form. -/
theorem Memory.wf_write {font : List Byte} {size : Nat} {m : Memory} (h : Memory.wf font size m = true)
    {a : Nat} (ha : a < size) (b : Byte) : Memory.wf font size (Memory.write font m a b) = true := by
  induction m with
  | nil => exact Memory.wf_consCell ha (by simp) rfl
  | cons cell rest ih =>
    obtain ⟨k, d⟩ := cell
    obtain ⟨hk, hd, hlt, hrest⟩ := Memory.wf_cons.1 h
    simp only [Memory.write]
    split
    · next hak =>
      refine Memory.wf_consCell ha (fun e he => ?_) h
      rcases List.mem_cons.1 he with rfl | he
      · exact hak
      · exact Nat.lt_trans hak (hlt e he)
    · split
      · next hak =>
        subst hak
        exact Memory.wf_consCell ha hlt hrest
      · next hne hak =>
        refine Memory.wf_cons.2 ⟨hk, hd, fun c hc => ?_, ih hrest⟩
        rcases Memory.mem_write hc with hc | hc
        · omega
        · exact hlt c hc

/-- Storing a range inside memory keeps the canonical form. -/
theorem Memory.wf_writeList {font : List Byte} {size : Nat} (bytes : List Byte) {m : Memory} {a : Nat}
    (h : Memory.wf font size m = true) (ha : a + bytes.length ≤ size) :
    Memory.wf font size (Memory.writeList font m a bytes) = true := by
  induction bytes generalizing m a with
  | nil => exact h
  | cons b rest ih =>
    simp only [List.length_cons] at ha
    exact ih (Memory.wf_write h (by omega) b) (by omega)

/-- A read after a range has been stored: the range's byte inside it, the old value outside (R63, R70, R73). -/
theorem Memory.read_writeList {font : List Byte} {size : Nat} (bytes : List Byte) {m : Memory} {a : Nat}
    (h : Memory.wf font size m = true) (ha : a + bytes.length ≤ size) (c : Nat) :
    Memory.read font (Memory.writeList font m a bytes) c =
      if a ≤ c ∧ c < a + bytes.length then bytes.getD (c - a) 0 else Memory.read font m c := by
  induction bytes generalizing m a with
  | nil => rw [if_neg (by simp)]; rfl
  | cons b rest ih =>
    simp only [List.length_cons] at ha ⊢
    rw [Memory.writeList, ih (Memory.wf_write h (by omega) b) (by omega), Memory.read_write h]
    by_cases hc : c = a
    · subst hc
      simp
    · by_cases hin : a + 1 ≤ c ∧ c < a + 1 + rest.length
      · rw [if_pos hin, if_pos (by omega), show c - a = (c - (a + 1)) + 1 by omega, List.getD_cons_succ]
      · rw [if_neg hin, if_neg hc, if_neg (by omega)]

/-- Storing bytes in a state with a well-formed memory: each byte of the range reads as stored, every other as before. -/
theorem State.readByte_storeBytes {s : State} {a : Nat} {bytes : List Byte}
    (h : Memory.wf s.params.font s.params.memSize s.mem = true) (ha : a + bytes.length ≤ s.params.memSize) (c : Nat) :
    (s.storeBytes a bytes).readByte c =
      if a ≤ c ∧ c < a + bytes.length then bytes.getD (c - a) 0 else s.readByte c :=
  Memory.read_writeList bytes h ha c

/-- Reading depends on memory and the font alone. -/
theorem State.readByte_congr {s t : State} (hm : t.mem = s.mem) (hp : t.params = s.params) (a : Nat) :
    t.readByte a = s.readByte a := by simp only [State.readByte, hm, hp]

/-- The memory of the constructed core is canonical. -/
theorem State.reset_memory_wf :
    Memory.wf State.reset.params.font State.reset.params.memSize State.reset.mem = true := rfl

end Sys2Proof.Machine
end

