-- ==== Sys2Proof/Laws/Operands.lean ====
section
/-! SUPPORT. What each operand form and each flag computation gives, in numbers (R10, R64, R93, R137, R150, R182, R183). -/

namespace Sys2Proof.Machine

/-! ### Registers -/

theorem State.reg_setReg (s : State) (x : Reg) (b : Byte) (r : Reg) :
    (s.setReg x b).reg r = if r = x then b else s.reg r := by
  simp only [State.reg, State.setReg_v, Fin.getElem_fin, Vector.getElem_set, Fin.ext_iff, eq_comm]

@[simp] theorem State.reg_setReg_self (s : State) (x : Reg) (b : Byte) : (s.setReg x b).reg x = b := by
  simp [State.reg_setReg]

theorem State.reg_setFlag (s : State) (f : Bool) (r : Reg) :
    (s.setFlag f).reg r = if r = flagReg then flagByte f else s.reg r := s.reg_setReg flagReg (flagByte f) r

@[simp] theorem State.reg_setFlag_flag (s : State) (f : Bool) : (s.setFlag f).reg flagReg = flagByte f := by
  simp [State.reg_setFlag]

/-- The flag is written last, so it is what `VF` holds (D10). -/
theorem State.reg_setRegFlag (s : State) (x : Reg) (b : Byte) (f : Bool) (r : Reg) :
    (s.setRegFlag x b f).reg r = if r = flagReg then flagByte f else if r = x then b else s.reg r := by
  rw [State.setRegFlag, State.reg_setFlag, State.reg_setReg]

theorem State.regsUpTo_length (s : State) (x : Reg) : (s.regsUpTo x).length = x.val + 1 := by
  simp only [State.regsUpTo, List.length_take, Vector.length_toList]
  omega

theorem State.regsUpTo_getD (s : State) (x r : Reg) (h : r ≤ x) : (s.regsUpTo x).getD r.val 0 = s.reg r := by
  have hle := Fin.le_def.1 h
  have hr : r.val < (s.regsUpTo x).length := by rw [State.regsUpTo_length]; omega
  rw [List.getD_eq_getElem _ _ hr]
  simp [State.regsUpTo, State.reg]

/-- Register `r` after loading `n` registers: the byte at `I + r` below `n`, the old value from `n` on (R185). -/
theorem State.loadRegs_get (s : State) (n : Nat) (r : Reg) :
    (s.loadRegs n)[r] = if r.val < n then s.readByte (s.dataAddr r.val) else s.reg r := by
  induction n with
  | zero => simp [State.loadRegs, State.reg]
  | succ k ih =>
    simp only [Fin.getElem_fin] at ih ⊢
    simp only [State.loadRegs, Vector.getElem_setIfInBounds]
    by_cases hk : k = r.val
    · simp [hk]
    · rw [if_neg hk, ih]
      simp only [show (r.val < k + 1) = (r.val < k) by (apply propext; omega)]

/-! ### Addresses -/

theorem zextAddr_toNat (nnn : BitVec 12) : (zextAddr nnn).toNat = nnn.toNat := by
  simp only [zextAddr, BitVec.toNat_setWidth]; omega

theorem zextByte_toNat (b : Byte) : (zextByte b).toNat = b.toNat := by
  simp only [zextByte, BitVec.toNat_setWidth]; omega

/-- `BNNN`'s sum does not wrap. -/
theorem offsetTarget_toNat (nnn : BitVec 12) (b : Byte) : (offsetTarget nnn b).toNat = nnn.toNat + b.toNat := by
  rw [offsetTarget, BitVec.toNat_add, zextAddr_toNat, zextByte_toNat]; omega

theorem glyphAddr_toNat (b : Byte) : (glyphAddr b).toNat = 5 * b.toNat := by
  rw [glyphAddr, BitVec.toNat_ofNat]; omega

theorem State.rangeFits_iff (s : State) (len : Nat) :
    s.rangeFits len = true ↔ len = 0 ∨ s.i.toNat + len ≤ s.params.memSize := by
  simp [State.rangeFits]

theorem bcdDigits_getD (b : Byte) :
    ((bcdDigits b).getD 0 0).toNat = b.toNat / 100 ∧ ((bcdDigits b).getD 1 0).toNat = b.toNat / 10 % 10 ∧
      ((bcdDigits b).getD 2 0).toNat = b.toNat % 10 := by
  simp [bcdDigits, BitVec.toNat_udiv, BitVec.toNat_umod]

/-! ### Keys -/

theorem keyOfByte_eq_some {b : Byte} {k : Key} : keyOfByte b = some k ↔ b.toNat = k.val := by
  unfold keyOfByte
  split
  · simp [Fin.ext_iff]
  · simp; omega

theorem keyOfByte_eq_none {b : Byte} : keyOfByte b = none ↔ b.toNat > 15 := by
  unfold keyOfByte
  split
  · simp; omega
  · simp; omega

theorem byteOfKey_toNat (k : Key) : (byteOfKey k).toNat = k.val := by
  rw [byteOfKey, BitVec.toNat_ofNat]; omega

/-! ### Flags -/

theorem flagByte_toNat (b : Bool) : (flagByte b).toNat = if b then 1 else 0 := by cases b <;> rfl

theorem carryFlag_iff (a b : Byte) : carryFlag a b = true ↔ a.toNat + b.toNat > 255 := by
  simp [carryFlag]

theorem noBorrowFlag_iff (a b : Byte) : noBorrowFlag a b = true ↔ a.toNat ≥ b.toNat := by
  simp [noBorrowFlag]

theorem lowBitFlag_toNat (a : Byte) : (flagByte (lowBitFlag a)).toNat = a.toNat % 2 := by
  rw [flagByte_toNat, lowBitFlag, BitVec.getLsbD, Nat.testBit_zero]
  rcases Nat.mod_two_eq_zero_or_one a.toNat with h | h <;> simp [h]

theorem highBitFlag_toNat (a : Byte) : (flagByte (highBitFlag a)).toNat = a.toNat / 128 := by
  have ha := a.isLt
  rw [flagByte_toNat, highBitFlag, BitVec.getLsbD, Nat.testBit_eq_decide_div_mod_eq]
  simp only [decide_eq_true_eq]
  split <;> omega

end Sys2Proof.Machine
end

