-- ==== Sys2Proof/Laws/PerInstr.lean ====
section
/-! SUPPORT. One lemma per instruction: what `encode` writes has the fixed bits of the instruction's own row of
opcode_table.json (its mask and match), whatever the operands (R92, R96). -/

namespace Sys2Proof.Laws.EncodesItsRow

/-- The encoding belongs to the instruction's row of the opcode table. -/
def Statement (i : Instr) : Prop := encode i &&& (opcodeRow i).1 = (opcodeRow i).2

theorem cls : Statement (.cls) := rfl
theorem ret : Statement (.ret) := rfl
theorem jp (nnn : BitVec 12) : Statement (.jp nnn) := (and_addrWord ..).trans rfl
theorem call (nnn : BitVec 12) : Statement (.call nnn) := (and_addrWord ..).trans rfl
theorem seImm (x : Reg) (nn : Byte) : Statement (.seImm x nn) := (and_regImmWord ..).trans rfl
theorem sneImm (x : Reg) (nn : Byte) : Statement (.sneImm x nn) := (and_regImmWord ..).trans rfl
theorem seReg (x y : Reg) : Statement (.seReg x y) := (and_regRegWord ..).trans rfl
theorem ldImm (x : Reg) (nn : Byte) : Statement (.ldImm x nn) := (and_regImmWord ..).trans rfl
theorem addImm (x : Reg) (nn : Byte) : Statement (.addImm x nn) := (and_regImmWord ..).trans rfl
theorem ldReg (x y : Reg) : Statement (.ldReg x y) := (and_regRegWord ..).trans rfl
theorem orReg (x y : Reg) : Statement (.orReg x y) := (and_regRegWord ..).trans rfl
theorem andReg (x y : Reg) : Statement (.andReg x y) := (and_regRegWord ..).trans rfl
theorem xorReg (x y : Reg) : Statement (.xorReg x y) := (and_regRegWord ..).trans rfl
theorem addReg (x y : Reg) : Statement (.addReg x y) := (and_regRegWord ..).trans rfl
theorem subReg (x y : Reg) : Statement (.subReg x y) := (and_regRegWord ..).trans rfl
theorem shr (x y : Reg) : Statement (.shr x y) := (and_regRegWord ..).trans rfl
theorem subn (x y : Reg) : Statement (.subn x y) := (and_regRegWord ..).trans rfl
theorem shl (x y : Reg) : Statement (.shl x y) := (and_regRegWord ..).trans rfl
theorem sneReg (x y : Reg) : Statement (.sneReg x y) := (and_regRegWord ..).trans rfl
theorem ldI (nnn : BitVec 12) : Statement (.ldI nnn) := (and_addrWord ..).trans rfl
theorem jpV0 (nnn : BitVec 12) : Statement (.jpV0 nnn) := (and_addrWord ..).trans rfl
theorem rnd (x : Reg) (nn : Byte) : Statement (.rnd x nn) := (and_regImmWord ..).trans rfl
theorem drw (x y : Reg) (n : RowCount) : Statement (.drw x y n) := (and_drawWord ..).trans rfl
theorem skp (x : Reg) : Statement (.skp x) := (and_regSubWord ..).trans rfl
theorem sknp (x : Reg) : Statement (.sknp x) := (and_regSubWord ..).trans rfl
theorem ldVxDT (x : Reg) : Statement (.ldVxDT x) := (and_regSubWord ..).trans rfl
theorem ldVxK (x : Reg) : Statement (.ldVxK x) := (and_regSubWord ..).trans rfl
theorem ldDTVx (x : Reg) : Statement (.ldDTVx x) := (and_regSubWord ..).trans rfl
theorem ldSTVx (x : Reg) : Statement (.ldSTVx x) := (and_regSubWord ..).trans rfl
theorem addIVx (x : Reg) : Statement (.addIVx x) := (and_regSubWord ..).trans rfl
theorem ldFVx (x : Reg) : Statement (.ldFVx x) := (and_regSubWord ..).trans rfl
theorem ldBVx (x : Reg) : Statement (.ldBVx x) := (and_regSubWord ..).trans rfl
theorem ldMemVx (x : Reg) : Statement (.ldMemVx x) := (and_regSubWord ..).trans rfl
theorem ldVxMem (x : Reg) : Statement (.ldVxMem x) := (and_regSubWord ..).trans rfl

end Sys2Proof.Laws.EncodesItsRow
end

