-- ==== Sys2Proof/Laws/Sprite.lean ====
section
/-! SUPPORT. What the sprite-drawing loop does, cell by cell: the framebuffer, the collision flag and the `setPixel` calls
(R201 to R204). -/

namespace Sys2Proof.Machine

/-! ### One cell -/

@[simp] theorem Display.cell_cleared (x y : Nat) : Display.cleared.cell x y = false := by
  unfold Display.cell Display.cleared
  split <;> simp

/-- Outside the framebuffer a cell reads as off. -/
theorem Display.cell_outside {d : Display} {x y : Nat} (h : ¬ (x < 64 ∧ y < 32)) : d.cell x y = false := by
  unfold Display.cell
  split
  · exact BitVec.getLsbD_of_ge _ _ (by omega)
  · rfl

theorem Display.cell_toggle (d : Display) {x y : Nat} (hx : x < 64) (hy : y < 32) (cx cy : Nat) :
    (d.toggle x y).cell cx cy = (d.cell cx cy ^^ decide (cx = x ∧ cy = y)) := by
  by_cases hin : cx < 64 ∧ cy < 32
  · obtain ⟨hcx, hcy⟩ := hin
    simp only [Display.cell, Display.toggle, dif_pos hy, dif_pos hcy, Vector.getElem_set]
    by_cases h : y = cy
    · subst h
      simp only [if_true, BitVec.getLsbD_xor, BitVec.getLsbD_twoPow, and_true]
      simp only [hx, decide_true, Bool.true_and, eq_comm]
    · rw [if_neg h, decide_eq_false (fun h' => h h'.2.symm), Bool.xor_false]
  · rw [Display.cell_outside hin, Display.cell_outside hin, decide_eq_false (by omega)]
    rfl

/-- Two framebuffers with the same cells are the same. -/
theorem Display.ext_cells {d e : Display} (h : ∀ x y, x < 64 → y < 32 → d.cell x y = e.cell x y) : d = e := by
  refine Vector.ext fun y hy => BitVec.eq_of_getLsbD_eq fun x hx => ?_
  have := h x y hx hy
  simpa only [Display.cell, dif_pos hy] using this

/-! ### One row -/

section
variable (row : Byte) (x0 py : Nat) (a : DrawAcc)

theorem drawBit_of_hit {j : Nat} (h : row.getLsbD (7 - j) = true ∧ x0 + j < 64 ∧ py < 32) :
    drawBit row x0 py a j =
      { display := a.display.toggle (x0 + j) py
        collision := a.collision || a.display.cell (x0 + j) py
        calls := a.calls ++ [.setPixel (x0 + j) py (!a.display.cell (x0 + j) py)] } := by
  unfold drawBit drawCell displayWidth displayHeight
  rw [if_pos h.1, if_pos h.2]

theorem drawBit_of_miss {j : Nat} (h : ¬ (row.getLsbD (7 - j) = true ∧ x0 + j < 64 ∧ py < 32)) :
    drawBit row x0 py a j = a := by
  unfold drawBit drawCell displayWidth displayHeight
  split
  · rw [if_neg fun h' => h ⟨by assumption, h'⟩]
  · rfl

/-- The first `m` columns of a row, drawn on `a`. -/
theorem drawColumns_spec (m : Nat) :
    let r := (List.range m).foldl (drawBit row x0 py) a
    (∀ cx cy, r.display.cell cx cy =
      (a.display.cell cx cy ^^
        decide (cy = py ∧ x0 ≤ cx ∧ cx < x0 + m ∧ row.getLsbD (7 - (cx - x0)) = true ∧ cx < 64 ∧ cy < 32))) ∧
    (r.collision = true ↔ a.collision = true ∨
      ∃ j, j < m ∧ (row.getLsbD (7 - j) = true ∧ x0 + j < 64 ∧ py < 32) ∧ a.display.cell (x0 + j) py = true) ∧
    r.calls = a.calls ++ (List.range m).filterMap fun j =>
      if row.getLsbD (7 - j) = true ∧ x0 + j < 64 ∧ py < 32 then
        some (.setPixel (x0 + j) py (!a.display.cell (x0 + j) py)) else none := by
  induction m with
  | zero =>
    refine ⟨fun cx cy => ?_, by simp, by simp⟩
    rw [decide_eq_false (by omega), Bool.xor_false]
    rfl
  | succ m ih =>
    obtain ⟨hcell, hcoll, hcalls⟩ := ih
    simp only [List.range_succ, List.foldl_append, List.foldl_cons, List.foldl_nil, List.filterMap_append,
      List.filterMap_cons, List.filterMap_nil]
    set r := (List.range m).foldl (drawBit row x0 py) a
    have hold : r.display.cell (x0 + m) py = a.display.cell (x0 + m) py := by
      rw [hcell, decide_eq_false (by omega), Bool.xor_false]
    by_cases hit : row.getLsbD (7 - m) = true ∧ x0 + m < 64 ∧ py < 32
    · rw [drawBit_of_hit _ _ _ _ hit, if_pos hit]
      refine ⟨fun cx cy => ?_, ?_, ?_⟩
      · rw [Display.cell_toggle _ hit.2.1 hit.2.2, hcell]
        by_cases hc : cx = x0 + m ∧ cy = py
        · obtain ⟨rfl, rfl⟩ := hc
          have : row.getLsbD (7 - (x0 + m - x0)) = true := by rw [Nat.add_sub_cancel_left]; exact hit.1
          rw [decide_eq_false (by omega), decide_eq_true (by simp), decide_eq_true ⟨rfl, by omega, by omega, this, hit.2⟩]
          simp
        · rw [decide_eq_false hc, Bool.xor_false]
          congr 1
          refine decide_eq_decide.2 ⟨fun h => ⟨h.1, h.2.1, by omega, h.2.2.2⟩, fun h => ⟨h.1, h.2.1, ?_, h.2.2.2⟩⟩
          have : cx ≠ x0 + m := fun h' => hc ⟨h', h.1⟩
          omega
      · simp only [Bool.or_eq_true, hcoll, hold]
        constructor
        · rintro ((h | ⟨j, hj, h⟩) | h)
          · exact .inl h
          · exact .inr ⟨j, by omega, h⟩
          · exact .inr ⟨m, by omega, hit, h⟩
        · rintro (h | ⟨j, hj, h⟩)
          · exact .inl (.inl h)
          · by_cases hjm : j = m
            · subst hjm; exact .inr h.2
            · exact .inl (.inr ⟨j, by omega, h⟩)
      · simp only [hcalls, hold, List.append_assoc]
    · rw [drawBit_of_miss _ _ _ _ hit, if_neg hit]
      refine ⟨fun cx cy => ?_, ?_, ?_⟩
      · rw [hcell]
        congr 1
        refine decide_eq_decide.2 ⟨fun h => ⟨h.1, h.2.1, by omega, h.2.2.2⟩, fun h => ⟨h.1, h.2.1, ?_, h.2.2.2⟩⟩
        have : cx ≠ x0 + m := by
          rintro rfl
          refine hit ⟨?_, h.2.2.2.2.1, h.1 ▸ h.2.2.2.2.2⟩
          have := h.2.2.2.1
          rwa [Nat.add_sub_cancel_left] at this
        omega
      · rw [hcoll]
        refine or_congr_right ⟨fun ⟨j, hj, h⟩ => ⟨j, by omega, h⟩, fun ⟨j, hj, h⟩ => ⟨j, ?_, h⟩⟩
        have : j ≠ m := by rintro rfl; exact hit h.1
        omega
      · simp [hcalls]

end

/-! ### The whole sprite -/

/-- The sprite bit over the cell at column `j` and row `i` of the sprite. -/
theorem State.spriteBit_at (s : State) {x0 y0 n i j : Nat} (hi : i < n) (hj : j < 8) :
    s.spriteBit x0 y0 n (x0 + j) (y0 + i) = (s.readByte (s.dataAddr i)).getLsbD (7 - j) := by
  simp [State.spriteBit, hi, hj]

theorem State.spriteBit_iff (s : State) {x0 y0 n cx cy : Nat} :
    s.spriteBit x0 y0 n cx cy = true ↔
      ∃ i j, i < n ∧ j < 8 ∧ cx = x0 + j ∧ cy = y0 + i ∧ (s.readByte (s.dataAddr i)).getLsbD (7 - j) = true := by
  constructor
  · intro h
    simp only [State.spriteBit, Bool.and_eq_true, decide_eq_true_eq] at h
    exact ⟨cy - y0, cx - x0, by omega, by omega, by omega, by omega, h.2⟩
  · rintro ⟨i, j, hi, hj, rfl, rfl, h⟩
    rw [s.spriteBit_at hi hj, h]

/-- The draw of `n` rows: every cell under a set sprite bit is toggled, a collision is a cell that was on, and the calls are
those of `spriteCalls`. -/
theorem State.drawRows_spec (s : State) (x0 y0 n : Nat) :
    (∀ cx cy, (s.drawRows x0 y0 n).display.cell cx cy =
      (s.display.cell cx cy ^^ (decide (cx < 64 ∧ cy < 32) && s.spriteBit x0 y0 n cx cy))) ∧
    ((s.drawRows x0 y0 n).collision = true ↔ s.spriteCollides x0 y0 n) ∧
    (s.drawRows x0 y0 n).calls = s.spriteCalls x0 y0 n := by
  induction n with
  | zero =>
    refine ⟨fun cx cy => ?_, ?_, rfl⟩
    · have : s.spriteBit x0 y0 0 cx cy = false := by
        simp only [State.spriteBit, Bool.and_eq_false_iff, decide_eq_false_iff_not]; omega
      simp [this, State.drawRows]
    · simp [State.drawRows, State.spriteCollides, State.spriteBit_iff]
  | succ n ih =>
    obtain ⟨hcell, hcoll, hcalls⟩ := ih
    have hrow : s.drawRows x0 y0 (n + 1) = drawRow (s.readByte (s.dataAddr n)) x0 (y0 + n) (s.drawRows x0 y0 n) := by
      simp [State.drawRows, List.range_succ]
    have hold : ∀ cx, (s.drawRows x0 y0 n).display.cell cx (y0 + n) = s.display.cell cx (y0 + n) := by
      intro cx
      have : s.spriteBit x0 y0 n cx (y0 + n) = false := by
        simp only [State.spriteBit, Bool.and_eq_false_iff, decide_eq_false_iff_not]; omega
      rw [hcell, this, Bool.and_false, Bool.xor_false]
    obtain ⟨rcell, rcoll, rcalls⟩ :=
      drawColumns_spec (s.readByte (s.dataAddr n)) x0 (y0 + n) (s.drawRows x0 y0 n) 8
    rw [hrow]
    simp only [drawRow]
    refine ⟨fun cx cy => ?_, ?_, ?_⟩
    · rw [rcell, hcell]
      by_cases hy : cy = y0 + n
      · subst hy
        have h0 : s.spriteBit x0 y0 n cx (y0 + n) = false := by
          simp only [State.spriteBit, Bool.and_eq_false_iff, decide_eq_false_iff_not]; omega
        rw [h0, Bool.and_false, Bool.xor_false, State.spriteBit, Nat.add_sub_cancel_left]
        congr 1
        rw [Bool.eq_iff_iff]
        simp only [Bool.and_eq_true, decide_eq_true_eq]
        constructor
        · rintro ⟨-, h1, h2, h3, h4⟩; exact ⟨h4, ⟨⟨⟨h1, h2⟩, by omega⟩, by omega⟩, h3⟩
        · rintro ⟨h4, ⟨⟨⟨h1, h2⟩, -⟩, -⟩, h3⟩; exact ⟨trivial, h1, h2, h3, h4⟩
      · have hno : ¬ (cy = y0 + n ∧ x0 ≤ cx ∧ cx < x0 + 8 ∧
            (s.readByte (s.dataAddr n)).getLsbD (7 - (cx - x0)) = true ∧ cx < 64 ∧ cy < 32) := fun h => hy h.1
        have : s.spriteBit x0 y0 (n + 1) cx cy = s.spriteBit x0 y0 n cx cy := by
          simp only [State.spriteBit, show (cy < y0 + (n + 1)) = (cy < y0 + n) by (apply propext; omega)]
        rw [decide_eq_false hno, Bool.xor_false, this]
    · rw [rcoll, hcoll]
      simp only [State.spriteCollides, State.spriteBit_iff, hold, displayWidth, displayHeight]
      constructor
      · rintro (⟨cx, cy, hx, hy, ⟨i, j, hi, hj, e1, e2, hb⟩, hon⟩ | ⟨j, hj, ⟨hb, hx, hy⟩, hon⟩)
        · exact ⟨cx, cy, hx, hy, ⟨i, j, by omega, hj, e1, e2, hb⟩, hon⟩
        · exact ⟨x0 + j, y0 + n, hx, hy, ⟨n, j, by omega, hj, rfl, rfl, hb⟩, hon⟩
      · rintro ⟨cx, cy, hx, hy, ⟨i, j, hi, hj, rfl, rfl, hb⟩, hon⟩
        by_cases hin : i = n
        · subst hin
          exact .inr ⟨j, hj, ⟨hb, hx, hy⟩, hon⟩
        · exact .inl ⟨_, _, hx, hy, ⟨i, j, by omega, hj, rfl, rfl, hb⟩, hon⟩
    · rw [rcalls, hcalls]
      simp only [State.spriteCalls, List.range_succ (n := n), List.flatMap_append, List.flatMap_cons, List.flatMap_nil,
        List.append_nil, displayWidth, displayHeight, hold]
      congr 1
      · refine List.flatMap_congr fun i hi => List.filterMap_congr fun j hj => ?_
        rw [s.spriteBit_at (List.mem_range.1 hi) (List.mem_range.1 hj),
          s.spriteBit_at (by have := List.mem_range.1 hi; omega) (List.mem_range.1 hj)]
      · refine List.filterMap_congr fun j hj => ?_
        rw [s.spriteBit_at (Nat.lt_succ_self n) (List.mem_range.1 hj)]
        exact if_congr Iff.rfl rfl rfl

end Sys2Proof.Machine
end

