-- ==== Sys2Proof/Laws/Step.lean ====
section
/-! SUPPORT. What a step can do, said once (R115, R250, R251), what the end of a tick leaves, and runs of several steps. -/

namespace Sys2Proof.Machine

/-! ### The step by the kind of state -/

theorem countOutcome_eq_next {o : Host.Outcome State Fault Refusal} {t : State} :
    countOutcome o = .next t ↔ ∃ u, o = .next u ∧ t = u.countInstr := by
  cases o <;> simp [countOutcome, eq_comm]

theorem State.inBatch_iff {s : State} :
    s.inBatch = true ↔ s.run = .running ∧ s.count < s.params.batchSize ∧ s.suspend = false := by
  simp [State.inBatch, and_assoc]

theorem step_of_dispatching {s : State} (h : s.dispatching) : step s = dispatcherStep s := by
  obtain ⟨⟨hwf, hrom⟩, hb⟩ := h
  have hrun := (State.inBatch_iff.1 hb).1
  simp [step, coreStep, hwf, hrom, hrun, hb]

theorem step_of_endingTick {s : State} (h : s.endingTick) : step s = .next s.endTick := by
  obtain ⟨⟨hwf, hrom⟩, ⟨hrun, hb⟩ | hrun⟩ := h
  · simp [step, coreStep, hwf, hrom, hrun, hb]
  · simp [step, coreStep, hwf, hrom, hrun]

theorem step_of_unloaded {s : State} (hwf : s.params.wf = true) (hrun : s.run = .unloaded) :
    step s = .next (boot s) := by
  simp [step, coreStep, hwf, hrun]

/-- A core whose run has ended keeps its state (R251). -/
theorem step_of_ended {s : State} (h : s.ready) (hrun : s.failed ∨ s.runEnded) : step s = .next s := by
  obtain ⟨hwf, hrom⟩ := h
  rcases hrun with (⟨r, hr⟩ | ⟨r, hr⟩) | hr
  · simp [step, coreStep, hwf, hrom, hr]
  · simp [step, coreStep, hwf, hrom, hr]
  · simp only [State.runEnded] at hr
    simp [step, coreStep, hwf, hrom, hr]

/-- Everything a step that answers a next state can be: the load or the wait of an unloaded core, a `Step()` of the
dispatcher, the end of a tick, or nothing in an ended core. -/
theorem step_cases {s t : State} (h : step s = .next t) :
    s.params.wf = true ∧
      ((s.run = .unloaded ∧ t = boot s) ∨ (s.dispatching ∧ dispatcherStep s = .next t) ∨
        (s.endingTick ∧ t = s.endTick) ∨ (s.ready ∧ (s.failed ∨ s.runEnded) ∧ t = s)) := by
  have hwf : s.params.wf = true := by
    by_contra hn
    simp [step, coreStep, Bool.eq_false_of_not_eq_true hn] at h
  refine ⟨hwf, ?_⟩
  by_cases hu : s.run = .unloaded
  · rw [step_of_unloaded hwf hu] at h
    cases h
    exact .inl ⟨hu, rfl⟩
  · have hrom : s.romPort = none := by
      cases hp : s.romPort with
      | none => rfl
      | some rom => cases hr : s.run <;> simp_all [step, coreStep]
    have hready : s.ready := ⟨hwf, hrom⟩
    refine .inr ?_
    cases hr : s.run with
    | unloaded => exact absurd hr hu
    | running =>
      cases hb : s.inBatch with
      | true =>
        have hd : s.dispatching := ⟨hready, hb⟩
        exact .inl ⟨hd, by rw [← step_of_dispatching hd, h]⟩
      | false =>
        have he : s.endingTick := ⟨hready, .inl ⟨hr, hb⟩⟩
        rw [step_of_endingTick he] at h
        cases h
        exact .inr (.inl ⟨he, rfl⟩)
    | halted =>
      have he : s.endingTick := ⟨hready, .inr hr⟩
      rw [step_of_endingTick he] at h
      cases h
      exact .inr (.inl ⟨he, rfl⟩)
    | loadFailed r =>
      have hf : s.failed ∨ s.runEnded := .inl (.inr ⟨r, hr⟩)
      rw [step_of_ended hready hf] at h
      cases h
      exact .inr (.inr ⟨hready, hf, rfl⟩)
    | faulted r =>
      have hf : s.failed ∨ s.runEnded := .inl (.inl ⟨r, hr⟩)
      rw [step_of_ended hready hf] at h
      cases h
      exact .inr (.inr ⟨hready, hf, rfl⟩)
    | stopped =>
      have hf : s.failed ∨ s.runEnded := .inr hr
      rw [step_of_ended hready hf] at h
      cases h
      exact .inr (.inr ⟨hready, hf, rfl⟩)

/-- Everything a `Step()` of the dispatcher can do (R111, R112, R115). -/
theorem dispatcherStep_cases {s t : State} (h : dispatcherStep s = .next t) :
    (s.params.memSize ≤ s.pc.toNat ∧ t = s.halt) ∨
      (s.pc.toNat < s.params.memSize ∧ s.pc.toNat = s.params.memSize - 1 ∧
        t = s.raiseFault .fetchOutOfBounds 0 s.pc.toNat) ∨
      (s.pc.toNat + 1 < s.params.memSize ∧ ∃ e, decode s.fetchWord = .error e ∧
        t = s.raiseFault .unknownOpcode s.fetchWord s.fetchWord.toNat) ∨
      (s.pc.toNat + 1 < s.params.memSize ∧ ∃ i u, decode s.fetchWord = .ok i ∧ exec i s = .next u ∧
        t = u.countInstr) := by
  unfold dispatcherStep at h
  split at h
  · next hpc => cases h; exact .inl ⟨hpc, rfl⟩
  · next hpc =>
    refine .inr ?_
    split at h
    · next hpc' => cases h; exact .inl ⟨by omega, hpc', rfl⟩
    · next hpc' =>
      refine .inr ?_
      have hin : s.pc.toNat + 1 < s.params.memSize := by omega
      unfold runWord at h
      split at h
      · next i hi =>
        obtain ⟨u, hu, rfl⟩ := countOutcome_eq_next.1 h
        exact .inr ⟨hin, i, u, hi, hu, rfl⟩
      · next e he => cases h; exact .inl ⟨hin, e, he, rfl⟩

/-- The dispatcher on a word inside memory runs it (R115). -/
theorem dispatcherStep_of_inside {s : State} (h : s.pc.toNat + 1 < s.params.memSize) :
    dispatcherStep s = runWord s.fetchWord s := by
  unfold dispatcherStep
  rw [if_neg (by omega), if_neg (by omega)]

/-! ### The loader -/

theorem boot_of_rom {s : State} {rom : List Byte} (h : s.romPort = some rom) : boot s = s.loadRom rom := by
  simp [boot, h]

theorem boot_of_none {s : State} (h : s.romPort = none) : boot s = s := by simp [boot, h]

theorem State.loadRom_of_fits {s : State} {rom : List Byte} (h : rom.length ≤ s.params.memSize - programOrigin) :
    s.loadRom rom = { s.storeBytes programOrigin rom with run := .running, romPort := none } := if_pos h

theorem State.loadRom_of_tooLarge {s : State} {rom : List Byte} (h : ¬ rom.length ≤ s.params.memSize - programOrigin) :
    s.loadRom rom =
      { s with
        run := .loadFailed { code := .romTooLarge, ins := 0, pc := 0x200, info := rom.length }
        romPort := none } := if_neg h

/-! ### Counting an instruction -/

@[simp] theorem State.countInstr_of_running {s : State} (h : s.run = .running) :
    s.countInstr = { s with count := s.count + 1 } := by simp [State.countInstr, h]

/-- Counting an instruction changes nothing but the counter. -/
theorem State.countInstr_eq (s : State) : ∃ k, k ≤ s.count + 1 ∧ s.countInstr = { s with count := k } := by
  unfold State.countInstr
  split
  · exact ⟨s.count + 1, Nat.le_refl _, rfl⟩
  · exact ⟨s.count, Nat.le_succ _, rfl⟩

/-! ### The input poll -/

/-- A host event writes the key state and the quit flag only (R258). -/
theorem State.hostEvent_frame (s : State) (e : HostEvent) :
    s.hostEvent e =
      { s with
        pressed := (s.hostEvent e).pressed, latch := (s.hostEvent e).latch
        quitPending := (s.hostEvent e).quitPending } := by
  cases e with
  | keyDown k => simp only [State.hostEvent]; split <;> rfl
  | keyUp k => rfl
  | quit => rfl

/-- A poll's events write the key state and the quit flag only. -/
theorem State.hostEvents_frame (es : List HostEvent) (s : State) :
    es.foldl State.hostEvent s =
      { s with
        pressed := (es.foldl State.hostEvent s).pressed, latch := (es.foldl State.hostEvent s).latch
        quitPending := (es.foldl State.hostEvent s).quitPending } := by
  induction es generalizing s with
  | nil => rfl
  | cons e rest ih =>
    rw [List.foldl_cons, ih (s.hostEvent e)]
    rw [State.hostEvent_frame s e]

/-- A quit is pending after the poll exactly when it was before or one is among the events (R33, R258). -/
theorem State.hostEvents_quit (es : List HostEvent) (s : State) :
    (es.foldl State.hostEvent s).quitPending = (s.quitPending || decide (.quit ∈ es)) := by
  induction es generalizing s with
  | nil => simp
  | cons e rest ih =>
    rw [List.foldl_cons, ih]
    cases e with
    | keyDown k => simp only [State.hostEvent]; split <;> simp
    | keyUp k => simp [State.hostEvent]
    | quit => simp [State.hostEvent]

/-! ### The end of a tick -/

/-- The key state and the quit flag the end of a tick leaves are those of the poll's events on the state before. -/
theorem State.endTick_eq (s : State) :
    let p := (s.events.headD []).foldl State.hostEvent s
    s.endTick =
      { s with
        dt := timerTick s.dt, st := timerTick s.st, out := s.out ++ [.beep (s.st == 1), .present]
        events := s.events.tail, count := 0, suspend := false
        pressed := p.pressed, latch := p.latch, quitPending := p.quitPending
        run := if p.quitPending then .stopped else s.run } := by
  have key : ∀ (es : List HostEvent) (a b : State), b.pressed = a.pressed → b.latch = a.latch →
      b.quitPending = a.quitPending →
      (es.foldl State.hostEvent b).pressed = (es.foldl State.hostEvent a).pressed ∧
        (es.foldl State.hostEvent b).latch = (es.foldl State.hostEvent a).latch ∧
        (es.foldl State.hostEvent b).quitPending = (es.foldl State.hostEvent a).quitPending := by
    intro es
    induction es with
    | nil => intro a b h1 h2 h3; exact ⟨h1, h2, h3⟩
    | cons e rest ih =>
      intro a b h1 h2 h3
      refine ih _ _ ?_ ?_ ?_ <;> cases e <;> simp only [State.hostEvent, h1] <;> (try split) <;> simp_all
  obtain ⟨k1, k2, k3⟩ := key (s.events.headD []) s s.soundCue.decrementTimers rfl rfl rfl
  have hf := State.hostEvents_frame (s.events.headD []) s.soundCue.decrementTimers
  rw [k1, k2, k3] at hf
  simp only [State.endTick, State.poll]
  rw [show s.soundCue.decrementTimers.events = s.events from rfl, hf]
  generalize ((s.events.headD []).foldl State.hostEvent s).pressed = P
  generalize ((s.events.headD []).foldl State.hostEvent s).latch = L
  generalize ((s.events.headD []).foldl State.hostEvent s).quitPending = Q
  cases Q <;>
    simp [State.quitCheck, State.present, State.emit, State.clearTransient, State.soundCue, State.decrementTimers]

theorem timerTick_toNat (b : Byte) : (timerTick b).toNat = b.toNat - 1 := by
  unfold timerTick
  split
  · next h => subst h; rfl
  · next h =>
    have hb : 1 ≤ b.toNat := by
      rcases Nat.eq_zero_or_pos b.toNat with h0 | h0
      · exact absurd (BitVec.eq_of_toNat_eq (by simpa using h0)) h
      · exact h0
    rw [BitVec.toNat_sub_of_le (by rw [BitVec.le_def]; simpa using hb)]
    rfl

/-! ### Runs -/

/-- A run of any machine by its first step. -/
theorem run_succ_eq_next {M : Host.Core} {k : Nat} {s t : M.State} :
    M.run (k + 1) s = .next t ↔ ∃ u, M.step s = .next u ∧ M.run k u = .next t := by
  cases h : M.step s <;> simp [Host.Core.run, h]

theorem RunsTo_zero {s t : State} : RunsTo 0 s t ↔ t = s :=
  ⟨fun h => by cases h; rfl, fun h => h ▸ rfl⟩

theorem RunsTo_succ {k : Nat} {s t : State} : RunsTo (k + 1) s t ↔ ∃ u, step s = .next u ∧ RunsTo k u t :=
  run_succ_eq_next (M := core)

/-- A run is determined by its start. -/
theorem RunsTo_unique {k : Nat} {s t u : State} (h : RunsTo k s t) (h' : RunsTo k s u) : t = u := by
  rw [RunsTo, h'] at h
  cases h
  rfl

/-- A state whose step leaves it as it is stays for ever. -/
theorem RunsTo_of_fixed {s : State} (h : step s = .next s) (k : Nat) : RunsTo k s s := by
  induction k with
  | zero => exact RunsTo_zero.2 rfl
  | succ k ih => exact RunsTo_succ.2 ⟨s, h, ih⟩

end Sys2Proof.Machine
end

