-- ==== Sys2Proof/Tests/Slice0.lean ====
section
/-! SUPPORT. Tests on fixed values, expected results from spec/95_test_vectors.md (the vector's id is in each test's comment)
and the rules' examples, and a witness for the hypotheses of each statement that has some. -/

namespace Sys2Proof.Tests

open Sys2Proof Sys2Proof.Machine

/-! ### Helpers -/

/-- A loaded core at the start of a batch, with the given registers. -/
def withRegs (l : List (Reg × Byte)) : State :=
  l.foldl (fun s p => s.setReg p.1 p.2) { State.reset with run := .running }

/-- The same with `I` and the bytes from `0x300`. -/
def withData (i : Word) (bytes : List Byte) (l : List (Reg × Byte)) : State :=
  ((withRegs l).setI i).storeBytes 0x300 bytes

/-- What executing a word leaves, read through `f`. -/
def after {α : Type} (w : Word) (s : State) (f : State → α) : Option α :=
  match runWord w s with
  | .next t => some (f t)
  | .fault _ => none
  | .refused _ => none

/-- What one step leaves, read through `f`. -/
def stepped {α : Type} (s : State) (f : State → α) : Option α :=
  match step s with
  | .next t => some (f t)
  | .fault _ => none
  | .refused _ => none

/-- A fault's record as the spec writes it: `(code, ins, pc, info)`. -/
def faulted (c : FaultCode) (ins pc : Word) (info : Nat) : RunState := .faulted { code := c, ins := ins, pc := pc, info := info }

/-- The core at `pc` with a word stored there. -/
def atWord (pc w : Word) : State :=
  ({ withRegs [] with pc := pc }).storeBytes pc.toNat [highByte w, lowByte w]

/-- A running core whose batch is over. -/
def batchOver : State := { withRegs [] with count := 100 }

/-- A halted core. -/
def haltedCore : State := { withRegs [] with pc := 0x1000, run := .halted }

/-! ### Parameters: each check of `Config.wf` refuses an ill-formed record (R8) -/

theorem test_wf_default : Config.default.wf = true := by decide
theorem test_wf_memSize_low : ({ Config.default with memSize := 0x1FF }).wf = false := by decide
theorem test_wf_memSize_high : ({ Config.default with memSize := 0xF001 }).wf = false := by decide
theorem test_wf_stackDepth : ({ Config.default with stackDepth := 0 }).wf = false := by decide
theorem test_wf_batchSize : ({ Config.default with batchSize := 0 }).wf = false := by decide
theorem test_wf_font : ({ Config.default with font := defaultFont.drop 1 }).wf = false := by decide
/-- A core with such a record does not run. -/
theorem test_wf_stops : ∃ r, step { State.reset with params := { Config.default with stackDepth := 0 } } = .fault r := ⟨_, rfl⟩

/-! ### Decoding: a word of every constructor, written out from the formats of R92 and the map of R96 -/

theorem test_decode_family0 : decode 0b0000000011100000 = .ok .cls ∧ decode 0b0000000011101110 = .ok .ret := by decide
theorem test_decode_jumps :
    decode 0b0001001000110100 = .ok (.jp 0x234) ∧ decode 0b0010001100000000 = .ok (.call 0x300) ∧
    decode 0b1010001011110000 = .ok (.ldI 0x2F0) ∧ decode 0b1011111111111111 = .ok (.jpV0 0xFFF) := by decide
theorem test_decode_immediate :
    decode 0b0011001100101010 = .ok (.seImm 3 0x2A) ∧ decode 0b0100001100101010 = .ok (.sneImm 3 0x2A) ∧
    decode 0b0110101000101111 = .ok (.ldImm 0xA 0x2F) ∧ decode 0b0111001000100000 = .ok (.addImm 2 0x20) ∧
    decode 0b1100001100001111 = .ok (.rnd 3 0x0F) := by decide
theorem test_decode_skip_registers :
    decode 0b0101000100100000 = .ok (.seReg 1 2) ∧ decode 0b1001000100100000 = .ok (.sneReg 1 2) := by decide
theorem test_decode_family8 :
    decode 0b1000000000010000 = .ok (.ldReg 0 1) ∧ decode 0b1000000000010001 = .ok (.orReg 0 1) ∧
    decode 0b1000000000010010 = .ok (.andReg 0 1) ∧ decode 0b1000000000010011 = .ok (.xorReg 0 1) ∧
    decode 0b1000000000010100 = .ok (.addReg 0 1) ∧ decode 0b1000000000010101 = .ok (.subReg 0 1) ∧
    decode 0b1000000010100110 = .ok (.shr 0 0xA) ∧ decode 0b1000000000010111 = .ok (.subn 0 1) ∧
    decode 0b1000000010011110 = .ok (.shl 0 9) := by decide
theorem test_decode_draw : decode 0b1101000000010101 = .ok (.drw 0 1 5) := by decide
theorem test_decode_familyE :
    decode 0b1110001010011110 = .ok (.skp 2) ∧ decode 0b1110001010100001 = .ok (.sknp 2) := by decide
theorem test_decode_familyF :
    decode 0b1111010000000111 = .ok (.ldVxDT 4) ∧ decode 0b1111001100001010 = .ok (.ldVxK 3) ∧
    decode 0b1111011000010101 = .ok (.ldDTVx 6) ∧ decode 0b1111011000011000 = .ok (.ldSTVx 6) ∧
    decode 0b1111000000011110 = .ok (.addIVx 0) ∧ decode 0b1111010100101001 = .ok (.ldFVx 5) ∧
    decode 0b1111000000110011 = .ok (.ldBVx 0) ∧ decode 0b1111001101010101 = .ok (.ldMemVx 3) ∧
    decode 0b1111001101100101 = .ok (.ldVxMem 3) := by decide
/-- E5, E6: unknown words. -/
theorem test_decode_unknown :
    [0x0123, 0x00E1, 0x00FF, 0x5121, 0x9121, 0x8018, 0x801F, 0xE09F, 0xF000, 0xF0FF].all
      (fun w => decide (decode w = .error (.unknownOpcode w))) = true := by decide
theorem test_decodeTableWord :
    decodeTableWord 16 0x8014 = some (.addReg 0 1) ∧ decodeTableWord 16 0x8018 = none := by decide

/-! ### Control transfer and skips -/

/-- C2. -/
theorem test_ret : after 0x00EE { withRegs [] with stack := [0x204], pc := 0x30A } (fun t => (t.pc, t.stack)) = some (0x206, []) := by
  decide
/-- C1. -/
theorem test_ret_empty : after 0x00EE { withRegs [] with pc := 0x300 } (fun t => (t.run, t.pc)) =
    some (faulted .stackUnderflow 0x00EE 0x300 0x300, 0x300) := by decide
/-- C4, C6. -/
theorem test_jp : after 0x1234 (withRegs []) State.pc = some 0x234 := by decide
/-- C7. -/
theorem test_call : after 0x2300 { withRegs [] with pc := 0x204 } (fun t => (t.pc, t.stack)) = some (0x300, [0x204]) := by decide
/-- C9. -/
theorem test_call_full : after 0x2300 { withRegs [] with stack := List.replicate 16 0x202 } (fun t => (t.run, t.stack.length)) =
    some (faulted .stackOverflow 0x2300 0x200 0x200, 16) := by decide
/-- C10, C11. -/
theorem test_seImm : after 0x332A (withRegs [(3, 0x2A)]) State.pc = some 0x204 ∧
    after 0x332A (withRegs [(3, 0x2B)]) State.pc = some 0x202 := by decide
/-- C14, C15. -/
theorem test_sneImm : after 0x432A (withRegs [(3, 0x2B)]) State.pc = some 0x204 ∧
    after 0x432A (withRegs [(3, 0x2A)]) State.pc = some 0x202 := by decide
/-- C16, C17. -/
theorem test_seReg : after 0x5120 (withRegs [(1, 7), (2, 7)]) State.pc = some 0x204 ∧
    after 0x5120 (withRegs [(1, 7), (2, 8)]) State.pc = some 0x202 := by decide
/-- C19, C20. -/
theorem test_sneReg : after 0x9120 (withRegs [(1, 7), (2, 8)]) State.pc = some 0x204 ∧
    after 0x9440 (withRegs [(4, 9)]) State.pc = some 0x202 := by decide
/-- C22, C23. -/
theorem test_jpV0 : after 0xBFFF (withRegs [(0, 0xFF)]) State.pc = some 0x10FE ∧
    after 0xB500 (withRegs [(0, 0x01), (5, 0x80)]) State.pc = some 0x501 := by decide

/-! ### Loads, arithmetic and logic -/

/-- A1, A2. -/
theorem test_ldImm : after 0x6A2F (withRegs []) (fun t => (t.reg 0xA, t.pc)) = some (0x2F, 0x202) := by decide
/-- A3, A5. -/
theorem test_addImm : after 0x7220 (withRegs [(2, 0xF0), (15, 0x55)]) (fun t => (t.reg 2, t.reg 15)) = some (0x10, 0x55) ∧
    after 0x7F01 (withRegs [(15, 0xFF)]) (fun t => t.reg 15) = some 0x00 := by decide
/-- A6. -/
theorem test_ldReg : after 0x8010 (withRegs [(1, 0x55)]) (fun t => t.reg 0) = some 0x55 := by decide
/-- A7. -/
theorem test_orReg : after 0x8011 (withRegs [(0, 0x0F), (1, 0xF0), (15, 0x77)]) (fun t => (t.reg 0, t.reg 15)) =
    some (0xFF, 0x77) := by decide
/-- A8. -/
theorem test_andReg : after 0x8012 (withRegs [(0, 0x3C), (1, 0x0F), (15, 0x77)]) (fun t => (t.reg 0, t.reg 15)) =
    some (0x0C, 0x77) := by decide
/-- A9, A10. -/
theorem test_xorReg : after 0x8013 (withRegs [(0, 0x3C), (1, 0x0F), (15, 0x77)]) (fun t => (t.reg 0, t.reg 15)) =
    some (0x33, 0x77) := by decide
/-- S2, A16. -/
theorem test_addReg : after 0x8014 (withRegs [(0, 0xFA), (1, 0x0A)]) (fun t => (t.reg 0, t.reg 15)) = some (0x04, 1) ∧
    after 0x80F4 (withRegs [(0, 0x01), (15, 0xFF)]) (fun t => (t.reg 0, t.reg 15)) = some (0x00, 1) := by decide
/-- A14, A15: the destination is `VF`. -/
theorem test_addReg_vf : after 0x8F14 (withRegs [(15, 0x10), (1, 0x20)]) (fun t => t.reg 15) = some 0 ∧
    after 0x8F14 (withRegs [(15, 0xF0), (1, 0x20)]) (fun t => t.reg 15) = some 1 := by decide
/-- S4, A20. -/
theorem test_subReg : after 0x8015 (withRegs [(0, 5), (1, 10)]) (fun t => (t.reg 0, t.reg 15)) = some (0xFB, 0) ∧
    after 0x8F15 (withRegs [(15, 0x10), (1, 0x20)]) (fun t => t.reg 15) = some 0 := by decide
/-- A18. -/
theorem test_subReg_equal : after 0x8015 (withRegs [(0, 0x42), (1, 0x42)]) (fun t => (t.reg 0, t.reg 15)) = some (0, 1) := by
  decide
/-- S6, A22. -/
theorem test_shr : after 0x8006 (withRegs [(0, 0x81)]) (fun t => (t.reg 0, t.reg 15)) = some (0x40, 1) ∧
    after 0x80A6 (withRegs [(0, 0xFE), (0xA, 0x01)]) (fun t => (t.reg 0, t.reg 15, t.reg 0xA)) = some (0x7F, 0, 0x01) := by
  decide
/-- A24, A25. -/
theorem test_subn : after 0x8017 (withRegs [(0, 5), (1, 10)]) (fun t => (t.reg 0, t.reg 15)) = some (5, 1) ∧
    after 0x8017 (withRegs [(0, 10), (1, 5)]) (fun t => (t.reg 0, t.reg 15)) = some (0xFB, 0) := by decide
/-- S7, A29. -/
theorem test_shl : after 0x800E (withRegs [(0, 0x81)]) (fun t => (t.reg 0, t.reg 15)) = some (0x02, 1) ∧
    after 0x8F0E (withRegs [(15, 0x40)]) (fun t => t.reg 15) = some 0 := by decide
/-- A31: the draw is taken although the mask is 0. -/
theorem test_rnd_draws : after 0xC300 (withRegs []) (fun t => (t.draws, t.pc)) = some (1, 0x202) := by decide
/-- A30 to A32, for any draw. -/
theorem test_rnd : after 0xC30F (withRegs []) (fun t => t.reg 3) = some (Config.randomByte 0 &&& 0x0F) := rfl

/-! ### The address register and memory transfer -/

/-- M2. -/
theorem test_ldI : after 0xAFFF (withRegs []) (fun t => (t.i, t.pc)) = some (0xFFF, 0x202) := by decide
/-- M3, M4. -/
theorem test_addIVx : after 0xF01E (withData 0x0FFF [] [(0, 0x02), (15, 0x55)]) (fun t => (t.i, t.reg 15)) = some (0x1001, 0x55) ∧
    after 0xF01E (withData 0xFFFF [] [(0, 0x01)]) State.i = some 0 := by decide
/-- M5, M7. -/
theorem test_ldFVx : after 0xF529 (withRegs [(5, 0x0A)]) State.i = some 0x032 ∧
    after 0xF529 (withRegs [(5, 0xFF)]) State.i = some 0x4FB := by decide
/-- S10, M11. -/
theorem test_ldBVx :
    after 0xF033 (withData 0x300 [] [(0, 0xEA)]) (fun t => (t.readByte 0x300, t.readByte 0x301, t.readByte 0x302, t.i)) =
      some (2, 3, 4, 0x300) ∧
    after 0xF033 (withData 0xFFD [] [(0, 0x7B)]) (fun t => (t.readByte 0xFFD, t.readByte 0xFFE, t.readByte 0xFFF)) =
      some (1, 2, 3) := by decide
/-- M12, M13. -/
theorem test_ldBVx_fault :
    after 0xF033 (withData 0xFFE [] [(0, 0x7B)]) (fun t => (t.run, t.mem)) =
      some (faulted .memoryOutOfBounds 0xF033 0x200 0x1000, []) ∧
    after 0xF033 (withData 0x2000 [] []) State.run = some (faulted .memoryOutOfBounds 0xF033 0x200 0x2000) := by decide
/-- S11. -/
theorem test_ldMemVx : after 0xF355 (withData 0x300 [] [(0, 1), (1, 2), (2, 3), (3, 4), (4, 5)]) (fun t => (t.mem, t.i)) =
    some ([(0x300, 1), (0x301, 2), (0x302, 3), (0x303, 4)], 0x300) := by decide
/-- M16. -/
theorem test_ldMemVx_fault : after 0xFF55 (withData 0xFF1 [] []) (fun t => (t.run, t.mem)) =
    some (faulted .memoryOutOfBounds 0xFF55 0x200 0x1000, []) := by decide
/-- S11. -/
theorem test_ldVxMem : after 0xF365 (withData 0x300 [1, 2, 3, 4, 9] []) (fun t => (t.reg 0, t.reg 3, t.reg 4, t.i)) =
    some (1, 4, 0, 0x300) := by decide
/-- M18. -/
theorem test_ldVxMem_fault : after 0xF065 (withData 0x2000 [] [(0, 7)]) (fun t => (t.run, t.reg 0)) =
    some (faulted .memoryOutOfBounds 0xF065 0x200 0x2000, 7) := by decide

/-! ### Display -/

/-- G1. -/
theorem test_cls :
    after 0x00E0 { withRegs [(15, 0x55)] with display := ((withRegs []).display.toggle 1 1).toggle 63 31 }
      (fun t => (t.display, t.out, t.reg 15)) = some (Vector.replicate 32 0, [.clear], 0x55) := by decide
/-- S12: clipped at the right edge. -/
theorem test_drw_edge : after 0xD011 (withData 0x300 [0xFF] [(0, 63)]) (fun t => (t.display.cell 63 0, t.display.cell 0 0, t.reg 15, t.out)) =
    some (true, false, 0, [.setPixel 63 0 true]) := by decide
/-- G10: the old `VF` is the coordinate, and a cell goes from on to off. -/
theorem test_drw_collision :
    after 0xDF01 { withData 0x300 [0x80] [(0, 2), (15, 5)] with display := (withRegs []).display.toggle 5 2 }
      (fun t => (t.display.cell 5 2, t.reg 15, t.out)) = some (false, 1, [.setPixel 5 2 false]) := by decide
/-- G8: faults although the row is clipped. -/
theorem test_drw_fault : after 0xD012 (withData 0xFFF [] [(1, 31)]) (fun t => (t.run, t.out)) =
    some (faulted .memoryOutOfBounds 0xD012 0x200 0x1000, []) := by decide

/-! ### Key input and timers -/

/-- K1, K7. -/
theorem test_skp : after 0xE29E { withRegs [(2, 5)] with pressed := (withRegs []).pressed.set 5 true, pc := 0x300 } State.pc = some 0x304 ∧
    after 0xE29E { withRegs [(2, 5)] with latch := some 5 } (fun t => (t.pc, t.latch)) = some (0x202, some 5) := by decide
/-- K5. -/
theorem test_skp_fault : after 0xE29E (withRegs [(2, 0x10)]) State.run = some (faulted .keyIndexOutOfRange 0xE29E 0x200 0x10) := by
  decide
/-- K3, K4. -/
theorem test_sknp : after 0xE2A1 { withRegs [(2, 5)] with pc := 0x300 } State.pc = some 0x304 ∧
    after 0xE2A1 { withRegs [(2, 5)] with pressed := (withRegs []).pressed.set 5 true } State.pc = some 0x202 := by decide
/-- K6. -/
theorem test_sknp_fault : after 0xE2A1 (withRegs [(2, 0xFF)]) State.run = some (faulted .keyIndexOutOfRange 0xE2A1 0x200 0xFF) := by
  decide
/-- K8. -/
theorem test_ldVxDT : after 0xF407 { withRegs [] with dt := 0x3C } (fun t => t.reg 4) = some 0x3C := by decide
/-- K9, K10. -/
theorem test_ldVxK :
    after 0xF30A { withRegs [] with pc := 0x210 } (fun t => (t.pc, t.suspend, t.count)) = some (0x210, true, 1) ∧
    after 0xF30A { withRegs [] with pc := 0x210, latch := some 0xB } (fun t => (t.reg 3, t.latch, t.pc)) =
      some (0x0B, none, 0x212) := by decide
/-- K12. -/
theorem test_ldDTVx : after 0xF615 (withRegs [(6, 0x3C)]) (fun t => (t.dt, t.st)) = some (0x3C, 0) := by decide
/-- K14. -/
theorem test_ldSTVx : after 0xF618 (withRegs [(6, 0x02)]) (fun t => (t.st, t.dt)) = some (2, 0) := by decide

/-! ### The step and the tick -/

/-- E1, E2. -/
theorem test_step_edges :
    stepped { withRegs [] with pc := 0x1000 } (fun t => (t.run, t.count)) = some (.halted, 0) ∧
    stepped { withRegs [] with pc := 0xFFF } State.run = some (faulted .fetchOutOfBounds 0 0xFFF 0xFFF) := by decide
/-- E3. -/
theorem test_step_last_word : stepped (atWord 0xFFE 0x6001) (fun t => (t.reg 0, t.pc, t.count)) = some (1, 0x1000, 1) := by decide
/-- E4: empty memory. -/
theorem test_step_unknown : stepped (withRegs []) (fun t => (t.run, t.pc)) = some (faulted .unknownOpcode 0 0x200 0, 0x200) := by decide
/-- E8: an odd `pc`. -/
theorem test_step_odd : stepped (atWord 0x201 0x602A) (fun t => (t.reg 0, t.pc)) = some (0x2A, 0x203) := by decide
/-- T12: the load. -/
theorem test_load : stepped { State.reset with romPort := some [0x60, 0x2A, 0x70] } (fun t => (t.run, t.fetchWord, t.readByte 0x202, t.readByte 0x203)) =
    some (.running, 0x602A, 0x70, 0) := by decide
/-- T8. -/
theorem test_tick_halted :
    stepped { haltedCore with dt := 1, st := 1, events := [[.keyDown 2]] } (fun t => (t.dt, t.st, t.out, t.run)) =
      some (0, 0, [.beep true, .present], .halted) ∧
    stepped { haltedCore with events := [[.keyDown 2]] } (fun t => (t.pressed[2], t.latch)) = some (true, some 2) := by decide
/-- T5, the end of the tick. -/
theorem test_tick_quit : stepped { batchOver with dt := 2, events := [[.quit]] } (fun t => (t.dt, t.run, t.count)) = some (1, .stopped, 0) := by
  decide
/-- T1 to T4. -/
theorem test_poll :
    stepped { batchOver with events := [[.keyDown 3, .keyDown 5]] } (fun t => (t.pressed[3], t.pressed[5], t.latch)) = some (true, true, some 5) ∧
    stepped { batchOver with events := [[.keyDown 3, .keyUp 3]] } (fun t => (t.pressed[3], t.latch)) = some (false, some 3) ∧
    stepped { batchOver with pressed := batchOver.pressed.set 3 true, events := [[.keyDown 3]] } (fun t => (t.pressed[3], t.latch)) = some (true, none) ∧
    stepped { batchOver with pressed := batchOver.pressed.set 7 true, latch := some 7, events := [[.keyUp 7]] } (fun t => (t.pressed[7], t.latch)) =
      some (false, some 7) := by decide
/-- T13. -/
theorem test_reset : State.reset.pc = 0x200 ∧ State.reset.readByte 0 = 0xF0 ∧ State.reset.readByte 0x4F = 0x80 ∧
    State.reset.readByte 0x50 = 0 ∧ State.reset.run = .unloaded := by decide
/-- The step after `withFetchWord` runs the placed word, right after reset too. -/
theorem test_withFetchWord : stepped (State.reset.withFetchWord 16 0x6A2F) (fun t => (t.reg 0xA, t.pc)) = some (0x2F, 0x202) := by decide

/-! ### Witnesses: states and operands that meet the hypotheses of each statement that has some -/

theorem dispatching_atWord (pc w : Word) : (atWord pc w).dispatching := ⟨⟨rfl, rfl⟩, rfl⟩

theorem endingTick_batchOver : batchOver.endingTick := ⟨⟨rfl, rfl⟩, .inl ⟨rfl, rfl⟩⟩

theorem endingTick_haltedCore : haltedCore.endingTick := ⟨⟨rfl, rfl⟩, .inr rfl⟩

/-- The invariant at a loaded core with nothing in memory but the font and the bytes of `m`. -/
theorem inv_of_running (m : Memory) (v : Vector Byte 16) (i pc : Word) (h : Memory.wf defaultFont 4096 m = true)
    (hpc : pc.toNat ≤ 4096) : State.Inv { withRegs [] with mem := m, v := v, i := i, pc := pc } where
  memory := h
  stackDepth := Nat.zero_le _
  stackEntries := by intro a ha; cases ha
  pcBound := by show pc.toNat ≤ max (4096 + 2) 0x10FE; omega
  batch := Nat.zero_le _
  haltedOutside := by intro hr; cases hr
  faultPrecise := by intro r hr; cases hr

theorem witness_EncodeOfDecodedIsTheWord : decode 0x80A6 = .ok (.shr 0 0xA) := by decide

theorem witness_WordIsExactlyOneRowOrUnknown :
    decode 0xFF65 = .ok (.ldVxMem 15) ∧
    ((0xF0FF, 0xF065) ∈ opcodeRows ∧ matchesRow (0xF0FF, 0xF065) 0xFF65 = true) ∧
    (∀ row ∈ opcodeRows, matchesRow row 0x00E1 = false) := by
  refine ⟨by decide, by decide, fun row h => ?_⟩
  have key : (opcodeRows.all fun r => !matchesRow r 0x00E1) = true := by decide
  simpa using List.all_eq_true.1 key row h

theorem witness_BytesDecodeBigEndian : ([] : List Byte).length < 2 ∧ [(0x12 : Byte)].length < 2 := by decide

theorem witness_StepRunsTheDecodedInstruction :
    (atWord 0xFFE 0x6001).dispatching ∧ (atWord 0xFFE 0x6001).pc.toNat + 1 < (atWord 0xFFE 0x6001).params.memSize ∧
    decode (atWord 0xFFE 0x6001).fetchWord = .ok (.ldImm 0 1) ∧
    ∃ t, exec (.ldImm 0 1) (atWord 0xFFE 0x6001) = .next t := ⟨dispatching_atWord _ _, by decide, by decide, _, rfl⟩

theorem witness_StepRunsThePlacedWord :
    State.reset.params.wf = true ∧ Memory.wf State.reset.params.font State.reset.params.memSize State.reset.mem = true ∧
    decode 0xFF65 = .ok (.ldVxMem 15) := by decide

theorem witness_StepHaltsWhenPcLeavesMemory :
    (atWord 0x1000 0).dispatching ∧ (atWord 0x1000 0).params.memSize ≤ (atWord 0x1000 0).pc.toNat :=
  ⟨dispatching_atWord _ _, by decide⟩

theorem witness_StepFaultsOnBadFetchOrUnknownWord :
    ((atWord 0xFFF 0).dispatching ∧ (atWord 0xFFF 0).pc.toNat = (atWord 0xFFF 0).params.memSize - 1) ∧
    ((atWord 0xFFE 0x801F).dispatching ∧ (atWord 0xFFE 0x801F).pc.toNat + 1 < (atWord 0xFFE 0x801F).params.memSize ∧
      decode (atWord 0xFFE 0x801F).fetchWord = .error (.unknownOpcode 0x801F)) :=
  ⟨⟨dispatching_atWord _ _, by decide⟩, dispatching_atWord _ _, by decide, by decide⟩

theorem witness_EveryReadyCoreHasANextState : State.reset.ready ∧ haltedCore.ready := ⟨⟨rfl, rfl⟩, rfl, rfl⟩

theorem witness_EndedOrUnloadedCoreNeverChanges :
    (let r : FaultRecord := { code := .stackUnderflow, ins := 0x00EE, pc := 0x200, info := 0x200 }
     let f := { withRegs [] with run := .faulted r }
     let l := { State.reset with run := .loadFailed { code := .romTooLarge, ins := 0, pc := 0x200, info := 3585 } }
     let p := { withRegs [] with run := .stopped }
     (f.ready ∧ f.failed) ∧ (l.ready ∧ l.failed) ∧ (p.ready ∧ p.runEnded) ∧
       (State.reset.ready ∧ State.reset.run = .unloaded)) :=
  ⟨⟨⟨rfl, rfl⟩, .inl ⟨_, rfl⟩⟩, ⟨⟨rfl, rfl⟩, .inr ⟨_, rfl⟩⟩, ⟨⟨rfl, rfl⟩, rfl⟩, ⟨rfl, rfl⟩, rfl⟩

theorem witness_SecondRomLoadIsRefused :
    (let s := { withRegs [] with romPort := some [0x12, 0x00] }
     s.params.wf = true ∧ s.romPort = some [0x12, 0x00] ∧ s.run ≠ .unloaded) := by decide

/-- The largest ROM that fits, 3584 bytes (T10), and the empty one. -/
theorem witness_RomThatFitsIsLoadedAndRuns (rom : List Byte) (h : rom = [] ∨ rom = List.replicate 3584 0x12) :
    (let s := { State.reset with romPort := some rom }
     s.params.wf = true ∧ Memory.wf s.params.font s.params.memSize s.mem = true ∧ s.run = .unloaded ∧
       s.romPort = some rom ∧ rom.length ≤ s.params.memSize - 0x200) := by
  refine ⟨rfl, rfl, rfl, rfl, ?_⟩
  show rom.length ≤ 4096 - 0x200
  rcases h with rfl | rfl
  · exact Nat.zero_le _
  · rw [List.length_replicate]

/-- One byte too many (T11). -/
theorem witness_RomTooLargeFailsTheLoad :
    (let rom : List Byte := List.replicate 3585 0x12
     let s := { State.reset with romPort := some rom }
     s.params.wf = true ∧ s.run = .unloaded ∧ s.romPort = some rom ∧ s.params.memSize - 0x200 < rom.length) := by
  refine ⟨rfl, rfl, rfl, ?_⟩
  show 4096 - 0x200 < (List.replicate 3585 (0x12 : Byte)).length
  rw [List.length_replicate]
  decide

theorem witness_EndOfTickCueTimersAndPresent : batchOver.endingTick ∧ haltedCore.endingTick :=
  ⟨endingTick_batchOver, endingTick_haltedCore⟩

theorem witness_HaltedTimersReachZeroAndStay :
    (let s := { haltedCore with dt := 3, st := 2, events := [[.keyDown 1]] }
     s.ready ∧ s.run = .halted ∧ s.quitPending = false ∧ (∀ es ∈ s.events, HostEvent.quit ∉ es)) :=
  ⟨⟨rfl, rfl⟩, rfl, rfl, by decide⟩

theorem witness_PolledKeyFollowsItsLastEvent :
    ({ batchOver with events := [[.keyDown 3, .keyUp 3]] }).endingTick := ⟨⟨rfl, rfl⟩, .inl ⟨rfl, rfl⟩⟩

theorem witness_PollAppliesTheEventsInOrder :
    ({ haltedCore with events := [[.keyDown 15, .quit]] }).endingTick := ⟨⟨rfl, rfl⟩, .inr rfl⟩

theorem witness_HaltedProgramResultNeverChanges : haltedCore.ready ∧ haltedCore.programEnded ∧ RunsTo 1 haltedCore haltedCore.endTick :=
  ⟨⟨rfl, rfl⟩, rfl, RunsTo_succ.2 ⟨_, step_of_endingTick endingTick_haltedCore, RunsTo_zero.2 rfl⟩⟩

theorem witness_QuitStopsTheCoreAtTheEndOfItsTick :
    (let s := { batchOver with events := [[.keyDown 3, .quit]] }
     s.endingTick ∧ HostEvent.quit ∈ s.events.headD []) ∧
    (batchOver.endingTick ∧ HostEvent.quit ∉ batchOver.events.headD [] ∧ batchOver.quitPending = false) :=
  ⟨⟨⟨⟨rfl, rfl⟩, .inl ⟨rfl, rfl⟩⟩, by decide⟩, endingTick_batchOver, by decide, rfl⟩

theorem witness_BatchEndsWithinBatchSize : (atWord 0x200 0x1200).dispatching := dispatching_atWord _ _

/-- A batch of one instruction, a jump to itself. -/
theorem witness_UninterruptedBatchRunsExactlyBatchSize :
    (let s := { atWord 0x200 0x1200 with params := { Config.default with batchSize := 1 } }
     ∃ t, s.ready ∧ s.run = .running ∧ s.count = 0 ∧ s.suspend = false ∧ RunsTo 1 s t ∧
       (∀ j u, j < 1 → RunsTo j s u → u.inBatch = true) ∧ t.inBatch = false ∧ t.run = .running ∧ t.suspend = false) := by
  refine ⟨_, ⟨rfl, rfl⟩, rfl, rfl, rfl, RunsTo_succ.2 ⟨_, rfl, RunsTo_zero.2 rfl⟩, ?_, rfl, rfl, rfl⟩
  intro j u hj hu
  obtain rfl : j = 0 := by omega
  rw [RunsTo_zero.1 hu]
  rfl

theorem witness_TimersAndInputChangeOnlyBetweenBatches :
    ((atWord 0x200 0xF615).dispatching ∧ ∃ t, step (atWord 0x200 0xF615) = .next t) ∧
    (let s := { atWord 0x200 0xF30A with latch := some 15 }
     s.dispatching ∧ ∃ t, step s = .next t ∧ t.latch ≠ s.latch) :=
  ⟨⟨dispatching_atWord _ _, _, rfl⟩, ⟨⟨rfl, rfl⟩, rfl⟩, _, rfl, by decide⟩

theorem witness_EveryStepKeepsTheInvariant :
    ∃ s t : State, s.Inv ∧ s.run = .running ∧ step s = .next t :=
  ⟨_, _, inv_of_running [(0x200, 0x12), (0x201, 0x34)] (Vector.replicate 16 0) 0 0x200 (by decide) (by decide), rfl, rfl⟩

theorem witness_NoStepChangesTheParameters : ∃ t, step (atWord 0x200 0x1234) = .next t := ⟨_, rfl⟩

theorem witness_InstructionsFaultExactlyOnTheirOwnCheck :
    ownCheck .ret (withRegs []) = some (.stackUnderflow, 0x200) ∧
    ownCheck (.call 0x300) { withRegs [] with stack := List.replicate 16 0x202 } = some (.stackOverflow, 0x200) ∧
    ownCheck (.drw 0 1 2) (withData 0xFFF [] []) = some (.memoryOutOfBounds, 0x1000) ∧
    ownCheck (.ldBVx 0) (withData 0xFFE [] []) = some (.memoryOutOfBounds, 0x1000) ∧
    ownCheck (.ldMemVx 15) (withData 0xFF1 [] []) = some (.memoryOutOfBounds, 0x1000) ∧
    ownCheck (.ldVxMem 0) (withData 0x1000 [] []) = some (.memoryOutOfBounds, 0x1000) ∧
    ownCheck (.skp 2) (withRegs [(2, 16)]) = some (.keyIndexOutOfRange, 16) ∧
    ownCheck (.sknp 2) (withRegs [(2, 15)]) = none ∧ ownCheck (.ldMemVx 15) (withData 0xFF0 [] []) = none ∧
    ownCheck (.drw 0 1 0) (withData 0xFFFF [] []) = none := by decide

theorem witness_InstructionsWriteOnlyWhatTheRulesSay :
    (∃ t, exec (.ldVxMem 3) (withData 0x300 [1, 2, 3, 4] []) = .next t) ∧
    (let s := withData 0xFF0 [] [(0, 1), (15, 9)]
     Memory.wf s.params.font s.params.memSize s.mem = true ∧ ∃ t, exec (.ldMemVx 15) s = .next t) ∧
    (let s := withData 0xFFD [] [(0, 0x7B)]
     Memory.wf s.params.font s.params.memSize s.mem = true ∧ ∃ t, exec (.ldBVx 0) s = .next t) :=
  ⟨⟨_, rfl⟩, ⟨by decide, _, rfl⟩, by decide, _, rfl⟩

theorem witness_OnlyStoresChangeMemory :
    (∃ s t : State, s.Inv ∧ s.dispatching ∧ step s = .next t ∧ t.readByte 0x302 ≠ s.readByte 0x302) ∧
    (∃ s t : State, s.Inv ∧ s.dispatching ∧ step s = .next t ∧ t.readByte 0x300 ≠ s.readByte 0x300) :=
  ⟨⟨_, _, inv_of_running [(0x200, 0xF0), (0x201, 0x33)] (Vector.replicate 16 7) 0x300 0x200 (by decide) (by decide),
      ⟨⟨rfl, rfl⟩, rfl⟩, rfl, by decide⟩,
    ⟨_, _, inv_of_running [(0x200, 0xF0), (0x201, 0x55)] (Vector.replicate 16 7) 0x300 0x200 (by decide) (by decide),
      ⟨⟨rfl, rfl⟩, rfl⟩, rfl, by decide⟩⟩

/-- An empty stack, and a full one of which one entry is popped. -/
theorem witness_ReturnGoesPastTheSavedCall :
    ({ withRegs [] with stack := List.replicate 15 0x202 ++ [0x310] }).stack = List.replicate 15 0x202 ++ [0x310] ∧
    (withRegs []).stack = [] := ⟨rfl, rfl⟩

/-- 15 entries and 16 (C8, C9). -/
theorem witness_CallPushesItsOwnAddress :
    ({ withRegs [] with stack := List.replicate 15 0x202 }).stack.length < (withRegs []).params.stackDepth ∧
    (withRegs []).params.stackDepth ≤ ({ withRegs [] with stack := List.replicate 16 0x202 }).stack.length := by decide

theorem witness_ReturnUndoesCall :
    ∃ t, (withRegs []).stack.length < (withRegs []).params.stackDepth ∧ exec (.call 0x300) (withRegs []) = .next t ∧
      t.stack = t.stack := ⟨_, by decide, rfl, rfl⟩

/-- The destination may be `VF` and may not. -/
theorem witness_FlagWritersInto : (0 : Reg) ≠ flagReg ∧ (15 : Reg) = flagReg := by decide

/-- The last address that fits and the first that does not (M11, M12). -/
theorem witness_BcdStoresThreeDigits :
    (let s := withData 0xFFD [] [(0, 0x7B)]
     Memory.wf s.params.font s.params.memSize s.mem = true ∧ s.i.toNat + 2 < s.params.memSize) ∧
    (let s := withData 0xFFE [] [(0, 0x7B)]
     s.params.memSize ≤ s.i.toNat + 2) := by decide

/-- The last address that fits 16 registers and the first that does not (M15, M16); `FX65` has the same two cases. -/
theorem witness_StoreAndLoadRegisters :
    (let s := withData 0xFF0 [] [(0, 1)]
     Memory.wf s.params.font s.params.memSize s.mem = true ∧ s.i.toNat + (15 : Reg).val < s.params.memSize) ∧
    (let s := withData 0xFF1 [] []
     s.params.memSize ≤ s.i.toNat + (15 : Reg).val) := by decide

theorem witness_LoadAfterStoreRestoresRegisters :
    (let s := withData 0xFF0 [] [(0, 1), (15, 9)]
     ∃ t, Memory.wf s.params.font s.params.memSize s.mem = true ∧ s.i.toNat + (15 : Reg).val < s.params.memSize ∧
       exec (.ldMemVx 15) s = .next t) := ⟨_, by decide, by decide, rfl⟩

/-- No rows at an address outside memory, a last row at the top of memory, and one past it; with a collision and without. -/
theorem witness_DrawTogglesTheCellsUnderTheSprite :
    ((0 : RowCount).val = 0 ∨ (withData 0xFFFF [] []).i.toNat + (0 : RowCount).val - 1 < 4096) ∧
    ((1 : RowCount).val = 0 ∨ (withData 0xFFF [] []).i.toNat + (1 : RowCount).val - 1 < 4096) ∧
    ((2 : RowCount).val > 0 ∧ 4096 ≤ (withData 0xFFF [] []).i.toNat + (2 : RowCount).val - 1) ∧
    ({ withData 0x300 [0x80] [] with display := (withRegs []).display.toggle 63 31 }).spriteCollides 63 31 1 ∧
    ¬ (withData 0x300 [0x80] []).spriteCollides 63 31 0 := by
  refine ⟨by decide, by decide, by decide, ⟨63, 31, by decide, by decide, by decide, by decide⟩, ?_⟩
  rintro ⟨cx, cy, -, -, h, -⟩
  simp [State.spriteBit] at h
  omega

theorem witness_DrawingTwiceRestoresTheFramebuffer :
    (let s := withData 0x300 [0xFF] [(0, 63)]
     ∃ t u, (s.i.toNat + (1 : RowCount).val - 1 < s.params.memSize) ∧ exec (.drw 0 1 1) s = .next t ∧
       t.reg 0 = s.reg 0 ∧ t.reg 1 = s.reg 1 ∧ exec (.drw 0 1 1) t = .next u ∧
       (∃ cx cy, cx < 64 ∧ cy < 32 ∧ s.spriteBit (s.reg 0).toNat (s.reg 1).toNat 1 cx cy = true ∧
         s.display.cell cx cy = false)) :=
  ⟨_, _, by decide, rfl, rfl, rfl, rfl, 63, 0, by decide, by decide, by decide, by decide⟩

/-- Key 15, the last one, and the value 16. -/
theorem witness_SkipsOnKeys :
    ((withRegs [(2, 15)]).reg 2).toNat = (15 : Key).val ∧ ((withRegs [(2, 16)]).reg 2).toNat > 15 := by decide

theorem witness_WaitForKeySuspendsOrConsumes :
    (withRegs []).latch = none ∧ ({ withRegs [] with latch := some 15 }).latch = some 15 := ⟨rfl, rfl⟩

theorem witness_WaitingCoreStaysAtItsFX0A :
    (let s := atWord 0xFFE 0xF30A
     s.dispatching ∧ s.pc.toNat + 1 < s.params.memSize ∧ decode s.fetchWord = .ok (.ldVxK 3) ∧ s.latch = none ∧
       s.quitPending = false ∧ s.events.headD [] = []) :=
  ⟨dispatching_atWord _ _, by decide, by decide, rfl, rfl, rfl⟩

end Sys2Proof.Tests
end

