-- ==== Sys2Proof/Proofs/Params.lean ====
section
/-! The parameters of R8 are fixed: each part of a step leaves them as they are, so a step does (log 1). -/

namespace Sys2Proof.Machine

/-! ### The parts of a step -/

/-- Only the arms named first branch, on a fault of their own or, for `FX0A`, on the latch; every other arm has one answer. -/
theorem exec_params {i : Instr} {s t : State} (h : exec i s = .next t) : t.params = s.params := by
  cases i with
  | ret | call | drw | skp | sknp | ldVxK | ldBVx | ldMemVx | ldVxMem =>
    simp only [exec, execRet, execCall, execDrw, execSkp, execSknp, execLdVxK, execLdBVx, execLdMemVx, execLdVxMem] at h
    split at h <;> cases h <;> rfl
  | _ => cases h; rfl

@[simp] theorem State.countInstr_params (s : State) : s.countInstr.params = s.params := by
  obtain ⟨k, -, hk⟩ := s.countInstr_eq
  rw [hk]

theorem dispatcherStep_params {s t : State} (h : dispatcherStep s = .next t) : t.params = s.params := by
  obtain ⟨-, rfl⟩ | ⟨-, -, rfl⟩ | ⟨-, _, -, rfl⟩ | ⟨-, _, u, -, hu, rfl⟩ := dispatcherStep_cases h
  · exact s.halt_params
  · exact s.raiseFault_params ..
  · exact s.raiseFault_params ..
  · rw [u.countInstr_params, exec_params hu]

@[simp] theorem State.loadRom_params (s : State) (rom : List Byte) : (s.loadRom rom).params = s.params := by
  by_cases h : rom.length ≤ s.params.memSize - programOrigin
  · rw [State.loadRom_of_fits h, State.storeBytes_params]
  · rw [State.loadRom_of_tooLarge h]

@[simp] theorem boot_params (s : State) : (boot s).params = s.params := by
  cases h : s.romPort with
  | none => rw [boot_of_none h]
  | some rom => rw [boot_of_rom h, s.loadRom_params]

@[simp] theorem State.endTick_params (s : State) : s.endTick.params = s.params := by
  rw [s.endTick_eq]

/-! ### The step -/

theorem step_params {s t : State} (h : step s = .next t) : t.params = s.params := by
  obtain ⟨-, ⟨-, rfl⟩ | ⟨-, hd⟩ | ⟨-, rfl⟩ | ⟨-, -, rfl⟩⟩ := step_cases h
  · exact boot_params s
  · exact dispatcherStep_params hd
  · exact s.endTick_params
  · rfl

end Sys2Proof.Machine

open Sys2Proof.Machine

/-- Settles O27, by the cases of a step: the load, a `Step()` of the dispatcher, the end of a tick, an ended core. -/
theorem noStepChangesTheParameters : Obligations.NoStepChangesTheParameters := fun _ _ h => step_params h

end

section
/-! Encoding what a word decodes to gives the word back, family by family (R92, R96). -/

namespace Sys2Proof

section
variable {w : Word} {op : BitVec 4}

theorem addrWord_of_op (h : fieldOp w = op) : addrWord op (fieldNNN w) = w := h ▸ addrWord_fields w

theorem addrWord_of_op_nnn {nnn : BitVec 12} (h : fieldOp w = op) (hn : fieldNNN w = nnn) : addrWord op nnn = w :=
  hn ▸ addrWord_of_op h

theorem regImmWord_of_op (h : fieldOp w = op) : regImmWord op (fieldX w) (fieldNN w) = w := h ▸ regImmWord_fields w

theorem regImmWord_of_op_sub {sub : Byte} (h : fieldOp w = op) (hs : fieldNN w = sub) :
    regImmWord op (fieldX w) sub = w := hs ▸ regImmWord_of_op h

theorem regRegWord_of_op (h : fieldOp w = op) : regRegWord op (fieldX w) (fieldY w) (fieldSub w) = w :=
  h ▸ regRegWord_fields w

theorem regRegWord_of_op_sub {sub : BitVec 4} (h : fieldOp w = op) (hs : fieldSub w = sub) :
    regRegWord op (fieldX w) (fieldY w) sub = w := hs ▸ regRegWord_of_op h

end

theorem encode_of_decodeFamily0 {w : Word} {i : Instr} (hop : fieldOp w = 0x0) (h : decodeFamily0 w = .ok i) :
    encode i = w := by
  unfold decodeFamily0 at h
  split at h
  · next hn => cases h; exact addrWord_of_op_nnn hop hn
  · split at h
    · next hn => cases h; exact addrWord_of_op_nnn hop hn
    · cases h

theorem encode_of_decodeFamily8 {w : Word} {i : Instr} (hop : fieldOp w = 0x8) (h : decodeFamily8 w = .ok i) :
    encode i = w := by
  unfold decodeFamily8 at h
  split at h <;> cases h
  all_goals next hs => exact regRegWord_of_op_sub hop hs

theorem encode_of_decodeFamilyE {w : Word} {i : Instr} (hop : fieldOp w = 0xE) (h : decodeFamilyE w = .ok i) :
    encode i = w := by
  unfold decodeFamilyE at h
  split at h <;> cases h
  all_goals next hs => exact regImmWord_of_op_sub hop hs

theorem encode_of_decodeFamilyF {w : Word} {i : Instr} (hop : fieldOp w = 0xF) (h : decodeFamilyF w = .ok i) :
    encode i = w := by
  unfold decodeFamilyF at h
  split at h <;> cases h
  all_goals next hs => exact regImmWord_of_op_sub hop hs

/-- A family without a sub-opcode is its format alone. -/
theorem encode_of_decode {w : Word} {i : Instr} (h : decode w = .ok i) : encode i = w := by
  unfold decode at h
  split at h
  case h_1 hop => exact encode_of_decodeFamily0 hop h
  case h_9 hop => exact encode_of_decodeFamily8 hop h
  case h_15 hop => exact encode_of_decodeFamilyE hop h
  case h_16 =>
    have hop : fieldOp w = 0xF := by simp only [imp_false] at *; bv_omega
    exact encode_of_decodeFamilyF hop h
  case h_6 hop | h_10 hop =>
    split at h <;> cases h
    next hs => exact regRegWord_of_op_sub hop hs
  case h_14 hop => cases h; exact regRegWord_of_op hop
  case h_2 hop | h_3 hop | h_11 hop | h_12 hop => cases h; exact addrWord_of_op hop
  case h_4 hop | h_5 hop | h_7 hop | h_8 hop | h_13 hop => cases h; exact regImmWord_of_op hop

end Sys2Proof
end

section
/-! What an instruction does, said once for all 34: the fault of its own check and nothing else, or `Completes` (R113, R240,
R242). Its frame (R21 to R31, R62) follows. -/

namespace Sys2Proof.Machine

/-! ### What each state operation leaves unchanged -/

theorem RegsUnchangedBut.refl (rs : List Reg) (s : State) : RegsUnchangedBut rs s s := fun _ _ => rfl

theorem RegsUnchangedBut.setReg {rs : List Reg} {s t : State} {x : Reg} {b : Byte} (h : RegsUnchangedBut rs s t)
    (hx : x ∈ rs) : RegsUnchangedBut rs s (t.setReg x b) := fun r hr => by
  rw [State.reg_setReg, if_neg (by rintro rfl; exact hr hx), h r hr]

theorem RegsUnchangedBut.setRegFlag {rs : List Reg} {s t : State} {x : Reg} {b : Byte} {f : Bool}
    (h : RegsUnchangedBut rs s t) (hx : x ∈ rs) (hf : flagReg ∈ rs) : RegsUnchangedBut rs s (t.setRegFlag x b f) :=
  (h.setReg hx).setReg hf

/-- `FX65` with `n = x + 1` writes `V[0] .. V[x]` only (R185). -/
theorem RegsUnchangedBut.loadRegs {rs : List Reg} {s : State} {n : Nat} (h : ∀ r : Reg, r.val < n → r ∈ rs) :
    RegsUnchangedBut rs s { s with v := s.loadRegs n } := fun r hr =>
  (s.loadRegs_get n r).trans (if_neg fun hn => hr (h r hn))

theorem UnchangedBut.refl (fs : List Field) (s : State) : UnchangedBut fs s s where
  params := rfl
  pressed := rfl
  quitPending := rfl
  count := rfl
  romPort := rfl
  events := rfl
  i _ := rfl
  stack _ := rfl
  dt _ := rfl
  st _ := rfl
  display _ := rfl
  latch _ := rfl
  run _ := rfl
  mem _ _ := rfl
  suspend _ := rfl
  draws _ := rfl
  out _ := rfl

/-! ### What an instruction does -/

/-- Where an instruction may leave `pc`, from its own address `s.pc` (R113, R117, R130 to R137, R224). -/
inductive PcAfter (s t : State) : Prop where
  | stays (h : t.pc = s.pc)
  | next (h : t.pc = s.pc + 2)
  | skips (h : t.pc = s.pc + 4)
  | jumps (h : t.pc.toNat ≤ 0x10FE)
  | returns (r : Word) (hr : r ∈ s.stack) (h : t.pc = r + 2)

/-- What an instruction may make of the stack (R130, R132). -/
inductive StackAfter (s t : State) : Prop where
  | same (h : t.stack = s.stack)
  | popped (h : t.stack = s.stack.dropLast)
  | pushed (hroom : s.stack.length < s.params.stackDepth) (h : t.stack = s.stack ++ [s.pc])

/-- What an instruction that stores `len` bytes may make of memory (R62, R242). -/
inductive MemAfter (len : Nat) (s t : State) : Prop where
  | same (h : t.mem = s.mem)
  | stored (bytes : List Byte) (hlen : bytes.length = len) (hfits : s.dataAddr 0 + len ≤ s.params.memSize)
      (h : t.mem = Memory.writeList s.params.font s.mem (s.dataAddr 0) bytes)

/-- What holds of the state `t` an instruction leaves when it does not fault. -/
structure Completes (i : Instr) (s t : State) : Prop where
  regs   : RegsUnchangedBut (writesRegs i) s t
  fields : UnchangedBut (writesFields i) s t
  run    : t.run = s.run
  memory : MemAfter (storedLength i) s t
  stack  : StackAfter s t
  pc     : PcAfter s t

theorem zextAddr_le (nnn : BitVec 12) : (zextAddr nnn).toNat ≤ 0x10FE := by
  rw [zextAddr_toNat]
  omega

theorem offsetTarget_le (nnn : BitVec 12) (b : Byte) : (offsetTarget nnn b).toNat ≤ 0x10FE := by
  rw [offsetTarget_toNat]
  omega

theorem skipIf_pcAfter (s : State) (c : Bool) : PcAfter s (s.skipIf c) := by
  cases c
  · exact .next rfl
  · exact .skips rfl

theorem State.rangeFits_succ (s : State) (k : Nat) :
    s.rangeFits (k + 1) = true ↔ s.i.toNat + k < s.params.memSize := by
  rw [State.rangeFits_iff]
  omega

/-- An instruction whose own check fails raises that fault and does nothing else (R240, R242). -/
theorem exec_of_ownCheck {i : Instr} {s : State} {code : FaultCode} {info : Nat} (h : ownCheck i s = some (code, info)) :
    exec i s = .next (s.raiseFault code (encode i) info) := by
  cases i with
  | call =>
    simp only [ownCheck] at h
    split at h <;> cases h
    next hc => exact if_pos hc
  | ret =>
    simp only [ownCheck] at h
    split at h <;> cases h
    next hc => simp [exec, execRet, hc]
  | drw | ldBVx | ldMemVx | ldVxMem =>
    simp only [ownCheck] at h
    split at h <;> cases h
    next hc => exact if_neg (by rw [State.rangeFits_iff]; omega)
  | skp | sknp =>
    simp only [ownCheck] at h
    split at h <;> cases h
    next hc => simp [exec, execSkp, execSknp, keyOfByte_eq_none.2 hc]
  | _ => cases h

/-- An instruction whose own check passes completes. Each arm gives, in the order of `Completes`, the registers it writes, the
fields it writes (the others are the record's own, as in `UnchangedBut.refl`), and what becomes of `run`, memory, the stack
and `pc`. -/
theorem exec_completes {i : Instr} {s : State} (h : ownCheck i s = none) : ∃ t, exec i s = .next t ∧ Completes i s t := by
  cases i with
  | ldImm | addImm | ldReg | orReg | andReg | xorReg | ldVxDT =>
    exact ⟨_, rfl, (RegsUnchangedBut.refl _ s).setReg (by simp [writesRegs]), { UnchangedBut.refl _ s with },
      rfl, .same rfl, .same rfl, .next rfl⟩
  | addReg | subReg | shr | subn | shl =>
    exact ⟨_, rfl, (RegsUnchangedBut.refl _ s).setRegFlag (by simp [writesRegs]) (by simp [writesRegs]),
      { UnchangedBut.refl _ s with }, rfl, .same rfl, .same rfl, .next rfl⟩
  | rnd =>
    exact ⟨_, rfl, (RegsUnchangedBut.refl _ s).setReg (by simp [writesRegs]),
      { UnchangedBut.refl _ s with draws := by simp [writesFields] }, rfl, .same rfl, .same rfl, .next rfl⟩
  | seImm | sneImm | seReg | sneReg =>
    exact ⟨_, rfl, .refl _ s, { UnchangedBut.refl _ s with }, rfl, .same rfl, .same rfl, skipIf_pcAfter s _⟩
  | ldI | addIVx | ldFVx =>
    exact ⟨_, rfl, .refl _ s, { UnchangedBut.refl _ s with i := by simp [writesFields] },
      rfl, .same rfl, .same rfl, .next rfl⟩
  | ldDTVx =>
    exact ⟨_, rfl, .refl _ s, { UnchangedBut.refl _ s with dt := by simp [writesFields] },
      rfl, .same rfl, .same rfl, .next rfl⟩
  | ldSTVx =>
    exact ⟨_, rfl, .refl _ s, { UnchangedBut.refl _ s with st := by simp [writesFields] },
      rfl, .same rfl, .same rfl, .next rfl⟩
  | jp nnn =>
    exact ⟨_, rfl, .refl _ s, { UnchangedBut.refl _ s with }, rfl, .same rfl, .same rfl, .jumps (zextAddr_le nnn)⟩
  | jpV0 nnn =>
    exact ⟨_, rfl, .refl _ s, { UnchangedBut.refl _ s with }, rfl, .same rfl, .same rfl, .jumps (offsetTarget_le nnn _)⟩
  | cls =>
    exact ⟨_, rfl, .refl _ s,
      { UnchangedBut.refl _ s with display := by simp [writesFields], out := by simp [writesFields] },
      rfl, .same rfl, .same rfl, .next rfl⟩
  | drw x y n =>
    have hfits : s.rangeFits n.val = true := by
      simp only [ownCheck] at h
      rw [State.rangeFits_iff]
      split at h
      · cases h
      · omega
    exact ⟨_, if_pos hfits, (RegsUnchangedBut.refl _ s).setReg (by simp [writesRegs]),
      { UnchangedBut.refl _ s with display := by simp [writesFields], out := by simp [writesFields] },
      rfl, .same rfl, .same rfl, .next rfl⟩
  | ret =>
    cases hl : s.stack.getLast? with
    | none => simp [ownCheck, List.getLast?_eq_none_iff.1 hl] at h
    | some r =>
      simp only [exec, execRet, hl]
      exact ⟨_, rfl, .refl _ s, { UnchangedBut.refl _ s with stack := by simp [writesFields] },
        rfl, .same rfl, .popped rfl, .returns r (List.mem_of_getLast? hl) rfl⟩
  | call nnn =>
    have hroom : s.stack.length < s.params.stackDepth := by simpa [ownCheck] using h
    exact ⟨_, if_neg (Nat.not_le.2 hroom), .refl _ s, { UnchangedBut.refl _ s with stack := by simp [writesFields] },
      rfl, .same rfl, .pushed hroom rfl, .jumps (zextAddr_le nnn)⟩
  | ldBVx x =>
    have hlast : s.i.toNat + 2 < s.params.memSize := by simpa [ownCheck] using h
    exact ⟨_, if_pos ((s.rangeFits_succ 2).2 hlast), .refl _ s,
      { UnchangedBut.refl _ s with mem := by simp [writesFields] },
      rfl, .stored (bcdDigits (s.reg x)) rfl hlast rfl, .same rfl, .next rfl⟩
  | ldMemVx x =>
    have hlast : s.i.toNat + x.val < s.params.memSize := by simpa [ownCheck] using h
    exact ⟨_, if_pos ((s.rangeFits_succ x.val).2 hlast), .refl _ s,
      { UnchangedBut.refl _ s with mem := by simp [writesFields] },
      rfl, .stored (s.regsUpTo x) (s.regsUpTo_length x) hlast rfl, .same rfl, .next rfl⟩
  | ldVxMem x =>
    have hlast : s.i.toNat + x.val < s.params.memSize := by simpa [ownCheck] using h
    have hregs : ∀ r : Reg, r.val < x.val + 1 → r ∈ writesRegs (.ldVxMem x) := fun r hr =>
      List.mem_filter.2 ⟨List.mem_finRange r, decide_eq_true (Nat.le_of_lt_succ hr)⟩
    exact ⟨_, if_pos ((s.rangeFits_succ x.val).2 hlast), .loadRegs hregs, { UnchangedBut.refl _ s with },
      rfl, .same rfl, .same rfl, .next rfl⟩
  | skp x | sknp x =>
    have hkey : ¬ (s.reg x).toNat > 15 := by simpa [ownCheck] using h
    cases hk : keyOfByte (s.reg x) with
    | none => exact absurd (keyOfByte_eq_none.1 hk) hkey
    | some k =>
      simp only [exec, execSkp, execSknp, hk]
      exact ⟨_, rfl, .refl _ s, { UnchangedBut.refl _ s with }, rfl, .same rfl, .same rfl, skipIf_pcAfter s _⟩
  | ldVxK x =>
    cases hk : s.latch with
    | none =>
      exact ⟨{ s with suspend := true }, by simp only [exec, execLdVxK, hk], .refl _ s,
        { UnchangedBut.refl _ s with suspend := by simp [writesFields] }, rfl, .same rfl, .same rfl, .stays rfl⟩
    | some k =>
      exact ⟨{ s.setReg x (byteOfKey k) with latch := none }.advance, by simp only [exec, execLdVxK, hk],
        (RegsUnchangedBut.refl _ s).setReg (by simp [writesRegs]),
        { UnchangedBut.refl _ s with latch := by simp [writesFields] }, rfl, .same rfl, .same rfl, .next rfl⟩

/-- Everything an instruction that answers a next state can do: the fault of its own check, or its completion. -/
theorem exec_cases {i : Instr} {s t : State} (h : exec i s = .next t) :
    (∃ code info, ownCheck i s = some (code, info) ∧ t = s.raiseFault code (encode i) info) ∨
      (ownCheck i s = none ∧ Completes i s t) := by
  cases hc : ownCheck i s with
  | some r =>
    obtain ⟨code, info⟩ := r
    rw [exec_of_ownCheck hc] at h
    cases h
    exact .inl ⟨code, info, rfl, rfl⟩
  | none =>
    obtain ⟨u, hu, hcomp⟩ := exec_completes hc
    rw [hu] at h
    cases h
    exact .inr ⟨rfl, hcomp⟩

/-- An instruction that can fault may write `run`. -/
theorem run_mem_writesFields {i : Instr} {s : State} {r : FaultCode × Nat} (h : ownCheck i s = some r) :
    .run ∈ writesFields i := by
  cases i with
  | ret | call | drw | skp | sknp | ldBVx | ldMemVx | ldVxMem => simp [writesFields]
  | _ => cases h

/-- The codes 2, 6 and 8 are no instruction's (R240). -/
theorem ownCheck_code {i : Instr} {s : State} {code : FaultCode} {info : Nat} (h : ownCheck i s = some (code, info)) :
    code ≠ .registerOutOfRange ∧ code ≠ .fetchOutOfBounds ∧ code ≠ .romTooLarge := by
  cases i with
  | ret | call | drw | skp | sknp | ldBVx | ldMemVx | ldVxMem =>
    simp only [ownCheck] at h
    split at h <;> cases h
    decide
  | _ => cases h

/-! ### Frames -/

/-- Canonical memory reads as before outside the bytes stored (R62, R73). -/
theorem MemAfter.unchangedOutside {len : Nat} {s t : State} (h : MemAfter len s t) (hp : t.params = s.params)
    (hwf : Memory.wf s.params.font s.params.memSize s.mem = true) : MemUnchangedOutside (s.dataAddr 0) len s t := by
  intro b hb
  cases h with
  | same hm => exact State.readByte_congr hm hp b
  | stored bytes hlen hfits hm =>
    subst hlen
    rw [State.readByte, hp, hm, Memory.read_writeList bytes hwf hfits, if_neg (by omega), State.readByte]

/-- Storing keeps the canonical form (R60). -/
theorem MemAfter.wf {len : Nat} {s t : State} (h : MemAfter len s t)
    (hwf : Memory.wf s.params.font s.params.memSize s.mem = true) :
    Memory.wf s.params.font s.params.memSize t.mem = true := by
  cases h with
  | same hm => rwa [hm]
  | stored bytes hlen hfits hm =>
    rw [hm]
    exact Memory.wf_writeList bytes hwf (by omega)

theorem exec_frame {i : Instr} {s t : State} (h : exec i s = .next t) :
    RegsUnchangedBut (writesRegs i) s t ∧ UnchangedBut (writesFields i) s t := by
  obtain ⟨code, info, hc, rfl⟩ | ⟨-, hcomp⟩ := exec_cases h
  · have hrun := run_mem_writesFields hc
    exact ⟨.refl _ s, { UnchangedBut.refl _ s with run := fun hn => absurd hrun hn }⟩
  · exact ⟨hcomp.regs, hcomp.fields⟩

theorem exec_memAfter {i : Instr} {s t : State} (h : exec i s = .next t) : MemAfter (storedLength i) s t := by
  obtain ⟨code, info, -, rfl⟩ | ⟨-, hcomp⟩ := exec_cases h
  · exact .same rfl
  · exact hcomp.memory

end Sys2Proof.Machine

open Sys2Proof Sys2Proof.Machine

/-- Settles O29: a fault writes `run` alone, and an instruction that completes writes only what `Completes` says. -/
theorem instructionsWriteOnlyWhatTheRulesSay : Obligations.InstructionsWriteOnlyWhatTheRulesSay := by
  intro i s t h
  obtain ⟨hregs, hfields⟩ := exec_frame h
  exact ⟨hregs, hfields, (exec_memAfter h).unchangedOutside hfields.params⟩

end

section
/-! Every kind of step keeps the invariant of the machine (R26, R117, R241, R252). -/

namespace Sys2Proof

theorem Config.origin_le_memSize {c : Config} (h : c.wf = true) : programOrigin ≤ c.memSize := by
  simp only [Config.wf, Bool.and_eq_true, decide_eq_true_eq] at h
  obtain ⟨⟨⟨⟨hmin, -⟩, -⟩, -⟩, -⟩ := h
  exact hmin

end Sys2Proof

namespace Sys2Proof.Machine

/-- A fault counts nothing (R241, R252). -/
@[simp] theorem State.countInstr_raiseFault (s : State) (c : FaultCode) (w : Word) (n : Nat) :
    (s.raiseFault c w n).countInstr = s.raiseFault c w n := rfl

/-! ### Faults, the halt, the load and the end of a tick -/

theorem State.Inv.raiseFault {s : State} (h : s.Inv) {code : FaultCode} {w : Word}
    (hcode : code ≠ .registerOutOfRange ∧ code ≠ .romTooLarge)
    (hw : w = if code = .fetchOutOfBounds then 0 else s.fetchWord) (info : Nat) : (s.raiseFault code w info).Inv :=
  { h with
    haltedOutside := nofun
    faultPrecise := fun r hr => by cases hr; exact ⟨rfl, hw, hcode⟩ }

theorem State.Inv.halt {s : State} (h : s.Inv) (hpc : s.params.memSize ≤ s.pc.toNat) : s.halt.Inv :=
  { h with
    haltedOutside := fun _ => hpc
    faultPrecise := nofun }

theorem State.Inv.endTick {s : State} (h : s.Inv) (hend : s.endingTick) : s.endTick.Inv := by
  have hrun : s.run = .running ∨ s.run = .halted := hend.2.imp_left And.left
  rw [s.endTick_eq]
  exact { h with
    batch := Nat.zero_le _
    haltedOutside := fun hr => by
      dsimp only at hr
      split at hr
      · cases hr
      · exact h.haltedOutside hr
    faultPrecise := fun r hr => by
      dsimp only at hr
      split at hr
      · cases hr
      · rcases hrun with hrun | hrun <;> cases hrun.symm.trans hr }

theorem State.Inv.loadRom {s : State} (h : s.Inv) (hwf : s.params.wf = true) (rom : List Byte) : (s.loadRom rom).Inv := by
  have horigin := Config.origin_le_memSize hwf
  by_cases hfits : rom.length ≤ s.params.memSize - programOrigin
  · rw [State.loadRom_of_fits hfits]
    have hrange : programOrigin + rom.length ≤ s.params.memSize := by omega
    exact { h with
      memory := Memory.wf_writeList rom h.memory hrange
      haltedOutside := nofun
      faultPrecise := nofun }
  · rw [State.loadRom_of_tooLarge hfits]
    exact { h with
      haltedOutside := nofun
      faultPrecise := nofun }

theorem State.Inv.boot {s : State} (h : s.Inv) (hwf : s.params.wf = true) : (boot s).Inv := by
  cases hr : s.romPort with
  | none => rwa [boot_of_none hr]
  | some rom =>
    rw [boot_of_rom hr]
    exact h.loadRom hwf rom

/-! ### An instruction -/

section
variable {s t : State}

theorem StackAfter.length_le (h : StackAfter s t) (hdepth : s.stack.length ≤ s.params.stackDepth) :
    t.stack.length ≤ s.params.stackDepth := by
  cases h with
  | same hs => rwa [hs]
  | popped hs => rw [hs, List.length_dropLast]; omega
  | pushed hroom hs => rw [hs, List.length_append]; exact hroom

/-- The one entry that can be new is the address of the instruction itself (R132). -/
theorem StackAfter.mem_cases (h : StackAfter s t) {a : Word} (ha : a ∈ t.stack) : a ∈ s.stack ∨ a = s.pc := by
  cases h with
  | same hs => exact .inl (hs ▸ ha)
  | popped hs => exact .inl (List.mem_of_mem_dropLast (hs ▸ ha))
  | pushed _ hs => simpa [hs] using ha

/-- R117, for an instruction inside memory whose return addresses are inside memory. -/
theorem PcAfter.bound (h : PcAfter s t) (hin : s.pc.toNat + 1 < s.params.memSize)
    (hentries : ∀ a ∈ s.stack, a.toNat + 2 ≤ s.params.memSize) :
    t.pc.toNat ≤ max (s.params.memSize + 2) 0x10FE := by
  cases h with
  | stays hpc => rw [hpc]; omega
  | next hpc => rw [hpc]; bv_omega
  | skips hpc => rw [hpc]; bv_omega
  | jumps hpc => omega
  | returns r hr hpc =>
    have := hentries r hr
    rw [hpc]
    bv_omega

theorem State.Inv.completes {i : Instr} (h : s.Inv) (hrun : s.run = .running)
    (hin : s.pc.toNat + 1 < s.params.memSize) (hc : Completes i s t) : t.Inv := by
  have hp : t.params = s.params := hc.fields.params
  have htrun : t.run = .running := hc.run.trans hrun
  exact {
    memory := hp ▸ hc.memory.wf h.memory
    stackDepth := hp ▸ hc.stack.length_le h.stackDepth
    stackEntries := fun a ha => by
      rw [hp]
      rcases hc.stack.mem_cases ha with ha | rfl
      · exact h.stackEntries a ha
      · omega
    pcBound := hp ▸ hc.pc.bound hin h.stackEntries
    batch := by rw [hp, hc.fields.count]; exact h.batch
    haltedOutside := fun hr => by cases htrun.symm.trans hr
    faultPrecise := fun r hr => by cases htrun.symm.trans hr }

/-- A fault's word is the fetched one, because encoding what a word decodes to gives the word back (R241). -/
theorem State.Inv.countInstr_exec {i : Instr} (h : s.Inv) (hd : s.dispatching)
    (hin : s.pc.toNat + 1 < s.params.memSize) (hi : decode s.fetchWord = .ok i) (he : exec i s = .next t) :
    t.countInstr.Inv := by
  obtain ⟨hrun, hcount, -⟩ := State.inBatch_iff.1 hd.2
  obtain ⟨code, info, hc, rfl⟩ | ⟨-, hc⟩ := exec_cases he
  · obtain ⟨hreg, hfetch, hrom⟩ := ownCheck_code hc
    rw [State.countInstr_raiseFault]
    exact h.raiseFault ⟨hreg, hrom⟩ (by rw [if_neg hfetch, encode_of_decode hi]) info
  · have hroom : t.count + 1 ≤ t.params.batchSize := by rw [hc.fields.count, hc.fields.params]; exact hcount
    rw [State.countInstr_of_running (hc.run.trans hrun)]
    exact { h.completes hrun hin hc with batch := hroom }

/-! ### The step -/

theorem State.Inv.dispatcherStep (h : s.Inv) (hd : s.dispatching) (hs : dispatcherStep s = .next t) : t.Inv := by
  obtain ⟨hout, rfl⟩ | ⟨-, -, rfl⟩ | ⟨-, e, -, rfl⟩ | ⟨hin, i, u, hi, hu, rfl⟩ := dispatcherStep_cases hs
  · exact h.halt hout
  · exact h.raiseFault (by decide) rfl _
  · exact h.raiseFault (by decide) rfl _
  · exact h.countInstr_exec hd hin hi hu

theorem State.Inv.step (h : s.Inv) (hs : step s = .next t) : t.Inv := by
  obtain ⟨hwf, ⟨-, rfl⟩ | ⟨hd, hs⟩ | ⟨he, rfl⟩ | ⟨-, -, rfl⟩⟩ := step_cases hs
  · exact h.boot hwf
  · exact h.dispatcherStep hd hs
  · exact h.endTick he
  · exact h

end

end Sys2Proof.Machine

open Sys2Proof.Machine

/-- Settles O26, by the cases of a step: the load, a `Step()` of the dispatcher, the end of a tick, an ended core. -/
theorem everyStepKeepsTheInvariant : Obligations.EveryStepKeepsTheInvariant := fun _ _ h hs => h.step hs

end

section
/-! What an instruction encodes to decodes to it again, as a word and as the two bytes that memory holds, high byte first (R67,
R92, R96). -/

namespace Sys2Proof

/-- A family without a sub-opcode reads its fields back; in the others the sub-opcode that is read back picks the row. -/
theorem decode_encode (i : Instr) : decode (encode i) = .ok i := by
  cases i with
  | cls | ret => rfl
  | jp | call | ldI | jpV0 | seImm | sneImm | ldImm | addImm | rnd | seReg | sneReg | drw => simp [encode, decode]
  | ldReg | orReg | andReg | xorReg | addReg | subReg | shr | subn | shl => simp [encode, decode, decodeFamily8]
  | skp | sknp => simp [encode, decode, decodeFamilyE]
  | ldVxDT | ldVxK | ldDTVx | ldSTVx | addIVx | ldFVx | ldBVx | ldMemVx | ldVxMem =>
    simp [encode, decode, decodeFamilyF]

theorem decodeBytes_of_decode {hi lo : Byte} {i : Instr} (h : decode (wordOfBytes hi lo) = .ok i) (rest : List Byte) :
    decodeBytes (hi :: lo :: rest) = .ok (i, rest) := by
  rw [decodeBytes, h]
  rfl

theorem decodeBytes_encodeBytes (i : Instr) (rest : List Byte) : decodeBytes (encodeBytes i ++ rest) = .ok (i, rest) :=
  decodeBytes_of_decode (by rw [wordOfBytes_bytes, decode_encode]) rest

theorem decodeBytes_of_length_lt_two {bytes : List Byte} (h : bytes.length < 2) : decodeBytes bytes = .error .truncated := by
  match bytes, h with
  | [], _ => rfl
  | [_], _ => rfl

end Sys2Proof

open Sys2Proof

/-- Settles O4, by the round trip of a word and the two bytes it is put together from. -/
theorem bytesDecodeBigEndian : Obligations.BytesDecodeBigEndian :=
  ⟨decodeBytes_encodeBytes, fun _ => decodeBytes_of_length_lt_two⟩

end

section
/-! The word `withFetchWord` places is the one the next step fetches and runs (R67, R68, R115; log 4). -/

namespace Sys2Proof

theorem Config.one_le_batchSize {c : Config} (h : c.wf = true) : 1 ≤ c.batchSize := by
  simp only [Config.wf, Bool.and_eq_true, decide_eq_true_eq] at h
  obtain ⟨⟨-, hbatch⟩, -⟩ := h
  exact hbatch

end Sys2Proof

namespace Sys2Proof.Machine

/-- A step in the batch runs what the two bytes at `pc` decode to (R115). -/
theorem step_of_decode {s : State} {i : Instr} (hd : s.dispatching) (hin : s.pc.toNat + 1 < s.params.memSize)
    (hi : decode s.fetchWord = .ok i) : step s = countOutcome (exec i s) := by
  rw [step_of_dispatching hd, dispatcherStep_of_inside hin, runWord, hi]

/-! ### The placed word -/

theorem State.withFetchWord_word (s : State) (w : Word) : s.withFetchWord 16 w.toNat = s.placeWord w := by
  rw [State.withFetchWord, Nat.mod_eq_of_lt w.isLt, BitVec.ofNat_toNat, BitVec.setWidth_eq]

section
variable {s : State}

theorem State.fetchSlot_inside (h : s.params.wf = true) : s.fetchSlot.toNat + 1 < s.params.memSize := by
  unfold State.fetchSlot
  split
  · next hpc => exact hpc
  · have horigin : 0x200 ≤ s.params.memSize := Config.origin_le_memSize h
    exact Nat.lt_of_lt_of_le (by decide) horigin

theorem State.placeWord_dispatching (h : s.params.wf = true) (w : Word) : (s.placeWord w).dispatching := by
  have hroom : (s.placeWord w).count < s.params.batchSize := by
    simp only [State.placeWord]
    split
    · next hc => exact hc
    · exact Config.one_le_batchSize h
  exact ⟨⟨h, rfl⟩, State.inBatch_iff.2 ⟨rfl, hroom, rfl⟩⟩

/-- The two bytes of a word stored in canonical memory are read back as the word, high byte first (R67, R68). -/
theorem State.wordOfBytes_storeBytes {a : Nat} (hmem : Memory.wf s.params.font s.params.memSize s.mem = true)
    (ha : a + 1 < s.params.memSize) (w : Word) :
    wordOfBytes ((s.storeBytes a [highByte w, lowByte w]).readByte a)
      ((s.storeBytes a [highByte w, lowByte w]).readByte (a + 1)) = w := by
  have hread := State.readByte_storeBytes (bytes := [highByte w, lowByte w]) hmem ha
  rw [hread, hread]
  simp [wordOfBytes_bytes]

theorem State.placeWord_fetchWord (h : s.params.wf = true)
    (hmem : Memory.wf s.params.font s.params.memSize s.mem = true) (w : Word) : (s.placeWord w).fetchWord = w :=
  State.wordOfBytes_storeBytes hmem (State.fetchSlot_inside h) w

end

end Sys2Proof.Machine

open Sys2Proof.Machine

/-- Settles O7: the placed state dispatches, and the word it fetches is the placed one. -/
theorem stepRunsThePlacedWord : Obligations.StepRunsThePlacedWord := by
  intro s w i hwf hmem hi
  rw [s.withFetchWord_word]
  exact step_of_decode (State.placeWord_dispatching hwf w) (State.fetchSlot_inside hwf)
    (by rw [State.placeWord_fetchWord hwf hmem, hi])

end

section
/-! A step of the batch changes memory by an `FX33` or `FX55` only, and only at the bytes it stores (R62, R183, R184). -/

namespace Sys2Proof.Machine

@[simp] theorem State.countInstr_readByte (s : State) (a : Nat) : s.countInstr.readByte a = s.readByte a := by
  obtain ⟨k, -, hk⟩ := s.countInstr_eq
  rw [hk]
  rfl

/-- A byte an instruction changes is one of those it stores (R62). -/
theorem exec_changed_byte {i : Instr} {s t : State} {a : Nat}
    (hmem : Memory.wf s.params.font s.params.memSize s.mem = true) (h : exec i s = .next t)
    (ha : t.readByte a ≠ s.readByte a) : s.dataAddr 0 ≤ a ∧ a < s.dataAddr (storedLength i) := by
  have hout := (exec_memAfter h).unchangedOutside (exec_params h) hmem a
  by_contra hn
  exact ha (hout (by simp only [State.dataAddr] at hn ⊢; omega))

/-- A byte a `Step()` changes is stored by the instruction it runs: the halt and the faults of the step write none (R111,
R112). -/
theorem dispatcherStep_changed_byte {s t : State} {a : Nat}
    (hmem : Memory.wf s.params.font s.params.memSize s.mem = true) (h : dispatcherStep s = .next t)
    (ha : t.readByte a ≠ s.readByte a) :
    ∃ i, decode s.fetchWord = .ok i ∧ s.dataAddr 0 ≤ a ∧ a < s.dataAddr (storedLength i) := by
  obtain ⟨-, rfl⟩ | ⟨-, -, rfl⟩ | ⟨-, e, -, rfl⟩ | ⟨-, i, u, hi, hu, rfl⟩ := dispatcherStep_cases h
  · exact absurd (s.halt_readByte a) ha
  · exact absurd (s.raiseFault_readByte _ _ _ a) ha
  · exact absurd (s.raiseFault_readByte _ _ _ a) ha
  · rw [u.countInstr_readByte] at ha
    exact ⟨i, hi, exec_changed_byte hmem hu ha⟩

/-- The instructions that store are `FX33` and `FX55` (R62). -/
theorem stores_of_storedLength_ne_zero {i : Instr} (h : storedLength i ≠ 0) :
    (∃ x, i = .ldBVx x) ∨ (∃ x, i = .ldMemVx x) := by
  cases i with
  | ldBVx x => exact .inl ⟨x, rfl⟩
  | ldMemVx x => exact .inr ⟨x, rfl⟩
  | _ => exact absurd rfl h

end Sys2Proof.Machine

open Sys2Proof.Machine

/-- Settles O30: the byte lies in the range the instruction stores, which is empty but for `FX33` and `FX55`. -/
theorem onlyStoresChangeMemory : Obligations.OnlyStoresChangeMemory := by
  intro s t a hinv hd hs ha
  rw [step_of_dispatching hd] at hs
  obtain ⟨i, hi, hlo, hhi⟩ := dispatcherStep_changed_byte hinv.memory hs ha
  have hlen : storedLength i ≠ 0 := fun h0 => by rw [h0] at hhi; omega
  obtain ⟨x, rfl⟩ | ⟨x, rfl⟩ := stores_of_storedLength_ne_zero hlen
  · exact ⟨x, .inl ⟨hi, hlo, hhi⟩⟩
  · exact ⟨x, .inr ⟨hi, hlo, hhi⟩⟩

end

section
/-! The rows of the opcode table against the decoder: a word with a row's fixed bits decodes to an instruction of that row, a
word that decodes has the fixed bits of its instruction's row, and every other word is unknown (R95 to R97). -/

namespace Sys2Proof

theorem opcodeRow_mem (i : Instr) : opcodeRow i ∈ opcodeRows := by
  cases i <;> simp [opcodeRows, rowSamples, opcodeRow]

section
open Laws.EncodesItsRow

theorem encode_and_mask (i : Instr) : encode i &&& (opcodeRow i).1 = (opcodeRow i).2 :=
  Instr.rec (motive := Statement) cls ret jp call seImm sneImm seReg ldImm addImm ldReg orReg andReg xorReg addReg subReg
    shr subn shl sneReg ldI jpV0 rnd drw skp sknp ldVxDT ldVxK ldDTVx ldSTVx addIVx ldFVx ldBVx ldMemVx ldVxMem i

end

section
variable {w : Word}

theorem matchesRow_of_decode {i : Instr} (h : decode w = .ok i) : matchesRow (opcodeRow i) w = true := by
  rw [← encode_of_decode h, matchesRow, encode_and_mask, beq_self_eq_true]

/-! ### The family picks the switch on the sub-opcode (R95) -/

theorem decode_of_op0 (h : fieldOp w = 0x0) : decode w = decodeFamily0 w := by rw [decode, h]; rfl

theorem decode_of_op8 (h : fieldOp w = 0x8) : decode w = decodeFamily8 w := by rw [decode, h]; rfl

theorem decode_of_opE (h : fieldOp w = 0xE) : decode w = decodeFamilyE w := by rw [decode, h]; rfl

theorem decode_of_opF (h : fieldOp w = 0xF) : decode w = decodeFamilyF w := by rw [decode, h]; rfl

/-- The fixed bits of a row are the fields the decoder's switches read, so the word takes the branch of the row (R96). -/
theorem decode_row_of_matchesRow (j : Instr) (h : matchesRow (opcodeRow j) w = true) :
    (decode w).map opcodeRow = .ok (opcodeRow j) := by
  have hw : w &&& (opcodeRow j).1 = (opcodeRow j).2 := eq_of_beq h
  cases j <;> dsimp only [opcodeRow] at hw
  case cls | ret => rw [decode_of_op0 (fieldOp_of_masked hw rfl), decodeFamily0, fieldNNN_of_masked hw rfl]; rfl
  case jp | call | ldI | jpV0 | seImm | sneImm | ldImm | addImm | rnd | drw => rw [decode, fieldOp_of_masked hw rfl]; rfl
  case seReg | sneReg => rw [decode, fieldOp_of_masked hw rfl, fieldSub_of_masked hw rfl]; rfl
  case ldReg | orReg | andReg | xorReg | addReg | subReg | shr | subn | shl =>
    rw [decode_of_op8 (fieldOp_of_masked hw rfl), decodeFamily8, fieldSub_of_masked hw rfl]; rfl
  case skp | sknp => rw [decode_of_opE (fieldOp_of_masked hw rfl), decodeFamilyE, fieldNN_of_masked hw rfl]; rfl
  case ldVxDT | ldVxK | ldDTVx | ldSTVx | addIVx | ldFVx | ldBVx | ldMemVx | ldVxMem =>
    rw [decode_of_opF (fieldOp_of_masked hw rfl), decodeFamilyF, fieldNN_of_masked hw rfl]; rfl

theorem exists_decode_of_matchesRow {row : Word × Word} (hmem : row ∈ opcodeRows) (h : matchesRow row w = true) :
    ∃ i, decode w = .ok i ∧ opcodeRow i = row := by
  obtain ⟨j, -, rfl⟩ := List.mem_map.1 hmem
  have hmap := decode_row_of_matchesRow j h
  cases hd : decode w with
  | ok i => rw [hd] at hmap; exact ⟨i, rfl, Except.ok.inj hmap⟩
  | error e => rw [hd] at hmap; cases hmap

theorem row_unique_of_decode {i : Instr} {row : Word × Word} (hi : decode w = .ok i) (hmem : row ∈ opcodeRows)
    (h : matchesRow row w = true) : row = opcodeRow i := by
  obtain ⟨k, hk, rfl⟩ := exists_decode_of_matchesRow hmem h
  cases hk.symm.trans hi
  rfl

/-- The decoder has one error for a word, raised only where a family has a sub-opcode (R97). -/
theorem eq_unknownOpcode_of_decode {e : DecodeError} (h : decode w = .error e) : e = .unknownOpcode w := by
  unfold decode at h
  split at h
  case h_1 =>
    unfold decodeFamily0 at h
    split at h
    · cases h
    · split at h <;> cases h
      rfl
  case h_9 | h_15 | h_16 =>
    simp only [decodeFamily8, decodeFamilyE, decodeFamilyF] at h
    split at h <;> cases h
    rfl
  case h_6 | h_10 =>
    split at h <;> cases h
    rfl
  all_goals cases h

theorem decode_eq_unknownOpcode (h : ∀ row ∈ opcodeRows, matchesRow row w = false) :
    decode w = .error (.unknownOpcode w) := by
  cases hd : decode w with
  | ok i => cases (h _ (opcodeRow_mem i)).symm.trans (matchesRow_of_decode hd)
  | error e => rw [eq_unknownOpcode_of_decode hd]

end

end Sys2Proof

open Sys2Proof

/-- Settles O1, by the round trip of each instruction's format. -/
theorem decodeOfEncodeIsTheInstruction : Obligations.DecodeOfEncodeIsTheInstruction := decode_encode

/-- Settles O2, by the switch on the family: a word is put together again from its fields. -/
theorem encodeOfDecodedIsTheWord : Obligations.EncodeOfDecodedIsTheWord := fun _ _ => encode_of_decode

/-- Settles O3: a word that matches a row decodes to an instruction of it, so it matches the row of what it decodes to and no
other. -/
theorem wordIsExactlyOneRowOrUnknown : Obligations.WordIsExactlyOneRowOrUnknown :=
  ⟨rfl, fun _ =>
    ⟨fun i hi => ⟨opcodeRow_mem i, matchesRow_of_decode hi, fun _ => row_unique_of_decode hi⟩,
      fun _ => exists_decode_of_matchesRow, decode_eq_unknownOpcode⟩⟩

/-- Settles O5, by running the decoder on the fifteen words. -/
theorem exampleWordsDecode : Obligations.ExampleWordsDecode := by
  unfold Obligations.ExampleWordsDecode
  decide

end

section
/-! What a step in the batch does, by where `pc` stands and what is fetched there: run, halt or fault (R111, R112, R115). -/

namespace Sys2Proof.Machine
variable {s : State}

/-- A completed instruction is counted exactly when it leaves the core `Running` (R252). -/
theorem step_of_exec {i : Instr} {t : State} (hd : s.dispatching) (hin : s.pc.toNat + 1 < s.params.memSize)
    (hi : decode s.fetchWord = .ok i) (ht : exec i s = .next t) :
    step s = .next (if t.run = .running then { t with count := t.count + 1 } else t) := by
  rw [step_of_decode hd hin hi, countOutcome_eq_next.2 ⟨t, ht, rfl⟩, State.countInstr]

/-- The halt test comes before the fetch (R111). -/
theorem dispatcherStep_of_outside (h : s.params.memSize ≤ s.pc.toNat) : dispatcherStep s = .next s.halt := if_pos h

/-- At `MEM_SIZE - 1` the second byte of the word lies outside memory (R112). -/
theorem dispatcherStep_of_straddling (hlt : s.pc.toNat < s.params.memSize) (h : s.pc.toNat = s.params.memSize - 1) :
    dispatcherStep s = .next (s.raiseFault .fetchOutOfBounds 0 s.pc.toNat) := by
  rw [dispatcherStep, if_neg (Nat.not_le.2 hlt), if_pos h]

theorem runWord_of_unknown {w : Word} {e : DecodeError} (h : decode w = .error e) :
    runWord w s = .next (s.raiseFault .unknownOpcode w w.toNat) := by
  rw [runWord, h]

/-- With parameters in range there is a byte at `MEM_SIZE - 1`: memory is not empty (R8). -/
theorem State.pc_lt_memSize_of_last (hwf : s.params.wf = true) (h : s.pc.toNat = s.params.memSize - 1) :
    s.pc.toNat < s.params.memSize := by
  have horigin : 0x200 ≤ s.params.memSize := Config.origin_le_memSize hwf
  omega

end Sys2Proof.Machine

open Sys2Proof.Machine

/-- Settles O6, by the dispatcher's case of a word inside memory that decodes, and the count of what `exec` leaves. -/
theorem stepRunsTheDecodedInstruction : Obligations.StepRunsTheDecodedInstruction := by
  intro s i hd hin hi
  exact ⟨step_of_decode hd hin hi, fun _ ht => step_of_exec hd hin hi ht⟩

/-- Settles O8, by the dispatcher's halt test, which comes first. -/
theorem stepHaltsWhenPcLeavesMemory : Obligations.StepHaltsWhenPcLeavesMemory := by
  intro s hd hout
  rw [step_of_dispatching hd, dispatcherStep_of_outside hout, State.halt]

/-- Settles O9: at `MEM_SIZE - 1` the core has not halted, so the fetch faults; an unknown word inside memory faults in
`runWord`. -/
theorem stepFaultsOnBadFetchOrUnknownWord : Obligations.StepFaultsOnBadFetchOrUnknownWord := by
  constructor
  · intro s hd hlast
    have hlt : s.pc.toNat < s.params.memSize := State.pc_lt_memSize_of_last hd.1.1 hlast
    rw [step_of_dispatching hd, dispatcherStep_of_straddling hlt hlast, State.raiseFault, FaultsTo]
  · intro s e hd hin he
    rw [step_of_dispatching hd, dispatcherStep_of_inside hin, runWord_of_unknown he, State.raiseFault, FaultsTo]

end

section
/-! Control transfer and skips: where `pc` goes, what becomes of the stack, and the frame of `jumpTo` and `skipIf` (R130 to
R137). -/

namespace Sys2Proof.Machine

theorem encodedAs_encode (i : Instr) : EncodedAs i (encode i) := ⟨rfl, decode_encode i⟩

/-- Fault entry is the state the claims name (R241, R242). -/
theorem State.raiseFault_eq_FaultsTo (s : State) (code : FaultCode) (ins : Word) (info : Nat) :
    s.raiseFault code ins info = FaultsTo s code ins info := rfl

/-! ### Frames of the operations on `pc` and the stack -/

section
variable {fs : List Field} {s t : State}

theorem UnchangedBut.jumpTo (h : UnchangedBut fs s t) (a : Word) : UnchangedBut fs s (t.jumpTo a) := { h with }

theorem UnchangedBut.skipIf (h : UnchangedBut fs s t) (c : Bool) : UnchangedBut fs s (t.skipIf c) := { h with }

theorem UnchangedBut.push (h : UnchangedBut fs s t) (hs : .stack ∈ fs) (a : Word) : UnchangedBut fs s (t.push a) :=
  { h with stack := fun hn => absurd hs hn }

theorem UnchangedBut.dropTop (h : UnchangedBut fs s t) (hs : .stack ∈ fs) : UnchangedBut fs s t.dropTop :=
  { h with stack := fun hn => absurd hs hn }

end

/-! ### Jumps and skips -/

section
variable {i : Instr} {s : State}

theorem exec_of_jumpTo {target : Word} {n : Nat} (h : exec i s = .next (s.jumpTo target)) (hn : target.toNat = n) :
    ∃ t, exec i s = .next t ∧ t.pc.toNat = n ∧ RegsUnchangedBut [] s t ∧ UnchangedBut [] s t :=
  ⟨_, h, hn, .refl _ s, (UnchangedBut.refl _ s).jumpTo target⟩

/-- A skip passes over two bytes exactly when its condition holds, whatever they hold (R113). -/
theorem exec_of_skipIf {c : Bool} {p : Prop} [Decidable p] (h : exec i s = .next (s.skipIf c)) (hc : c = true ↔ p) :
    ∃ t, exec i s = .next t ∧ t.pc = (if p then s.pc + 4 else s.pc + 2) ∧ RegsUnchangedBut [] s t ∧
      UnchangedBut [] s t :=
  ⟨_, h, by simp only [State.skipIf_pc, hc], .refl _ s, (UnchangedBut.refl _ s).skipIf c⟩

end

/-! ### Call and return -/

section
variable {s : State} {nnn : BitVec 12}

theorem exec_call_of_room (h : s.stack.length < s.params.stackDepth) :
    exec (.call nnn) s = .next ((s.push s.pc).jumpTo (zextAddr nnn)) := if_neg (Nat.not_le.2 h)

theorem exec_call_of_full (h : s.params.stackDepth ≤ s.stack.length) :
    exec (.call nnn) s = .next (FaultsTo s .stackOverflow (addrWord 0x2 nnn) s.pc.toNat) := by
  have hcheck : ownCheck (.call nnn) s = some (.stackOverflow, s.pc.toNat) := if_pos h
  rw [exec_of_ownCheck hcheck, s.raiseFault_eq_FaultsTo, encode]

theorem exec_ret_of_top {below : List Word} {r : Word} (h : s.stack = below ++ [r]) :
    exec .ret s = .next (s.dropTop.jumpTo (r + 2)) := by
  simp only [exec, execRet, h, List.getLast?_concat]

theorem State.dropTop_stack_of_top {below : List Word} {r : Word} (h : s.stack = below ++ [r]) :
    s.dropTop.stack = below := by
  rw [s.dropTop_stack, h, List.dropLast_concat]

theorem exec_ret_of_empty (h : s.stack = []) :
    exec .ret s = .next (FaultsTo s .stackUnderflow 0x00EE s.pc.toNat) := by
  have hcheck : ownCheck .ret s = some (.stackUnderflow, s.pc.toNat) := if_pos h
  have hword : encode .ret = 0x00EE := rfl
  rw [exec_of_ownCheck hcheck, s.raiseFault_eq_FaultsTo, hword]

end

end Sys2Proof.Machine

open Sys2Proof Sys2Proof.Machine

/-- Settles O34: the call pushed its own address on the stack it found, and the return pops what is on top. -/
theorem returnUndoesCall : Obligations.ReturnUndoesCall := by
  intro nnn s t u hroom hcall hstack
  rw [exec_call_of_room hroom] at hcall
  cases hcall
  have htop : u.stack = s.stack ++ [s.pc] := hstack
  exact ⟨_, exec_ret_of_top htop, rfl, State.dropTop_stack_of_top htop⟩

/-- Settles O31, by whether the stack has a top. -/
theorem returnGoesPastTheSavedCall : Obligations.ReturnGoesPastTheSavedCall := by
  refine ⟨encodedAs_encode .ret, fun s below r htop => ?_, fun s => exec_ret_of_empty⟩
  exact ⟨_, exec_ret_of_top htop, rfl, State.dropTop_stack_of_top htop, .refl _ s,
    ((UnchangedBut.refl _ s).dropTop (List.mem_singleton_self _)).jumpTo (r + 2)⟩

/-- Settles O32: both targets fit 16 bits, so neither wraps. -/
theorem jumpsGoToTheirTargets : Obligations.JumpsGoToTheirTargets := fun nnn s =>
  ⟨encodedAs_encode (.jp nnn), encodedAs_encode (.jpV0 nnn), exec_of_jumpTo rfl (zextAddr_toNat nnn),
    exec_of_jumpTo rfl (offsetTarget_toNat nnn (s.reg 0))⟩

/-- Settles O33, by whether the stack has room. -/
theorem callPushesItsOwnAddress : Obligations.CallPushesItsOwnAddress := by
  refine fun nnn s => ⟨encodedAs_encode (.call nnn), fun hroom => ?_, exec_call_of_full⟩
  exact ⟨_, exec_call_of_room hroom, rfl, zextAddr_toNat nnn, .refl _ s,
    ((UnchangedBut.refl _ s).push (List.mem_singleton_self _) s.pc).jumpTo (zextAddr nnn)⟩

/-- Settles O35: both are a skip, on an equality of bytes and on its negation. -/
theorem skipsOnImmediate : Obligations.SkipsOnImmediate := fun x nn _ =>
  ⟨encodedAs_encode (.seImm x nn), encodedAs_encode (.sneImm x nn), exec_of_skipIf rfl beq_iff_eq,
    exec_of_skipIf rfl bne_iff_ne⟩

/-- Settles O36: both are a skip, on an equality of registers and on its negation. -/
theorem skipsOnRegisters : Obligations.SkipsOnRegisters := fun x y _ =>
  ⟨encodedAs_encode (.seReg x y), encodedAs_encode (.sneReg x y), exec_of_skipIf rfl beq_iff_eq,
    exec_of_skipIf rfl bne_iff_ne⟩

end

section
/-! Loads, arithmetic, logic and random: the register and flag an instruction writes, in numbers, and the frame of `setReg`
and `setRegFlag` (R13, R150 to R162). -/

namespace Sys2Proof.Machine

/-! ### Frames of the register writes -/

section
variable {fs : List Field} {s t : State}

theorem UnchangedBut.setReg (h : UnchangedBut fs s t) (x : Reg) (b : Byte) : UnchangedBut fs s (t.setReg x b) := { h with }

theorem UnchangedBut.setRegFlag (h : UnchangedBut fs s t) (x : Reg) (b : Byte) (f : Bool) :
    UnchangedBut fs s (t.setRegFlag x b f) := (h.setReg x b).setReg flagReg (flagByte f)

theorem UnchangedBut.advance (h : UnchangedBut fs s t) : UnchangedBut fs s t.advance := { h with }

end

/-! ### Results and flags, in numbers -/

section
variable (a b : Byte)

/-- R158, R160: the difference modulo 256. -/
theorem sub_toNat_eq_emod : ((a - b).toNat : Int) = ((a.toNat : Int) - b.toNat) % 256 := by
  rw [BitVec.toNat_sub]
  omega

/-- R159: a right shift by one halves. -/
theorem ushiftRight_one_toNat : (a >>> 1).toNat = a.toNat / 2 := by
  rw [BitVec.toNat_ushiftRight, Nat.shiftRight_one]

/-- R161: a left shift by one doubles modulo 256. -/
theorem shiftLeft_one_toNat : (a <<< 1).toNat = 2 * a.toNat % 256 := by
  rw [BitVec.toNat_shiftLeft, Nat.shiftLeft_eq, Nat.pow_one, Nat.mul_comm]

theorem carryFlag_toNat : (flagByte (carryFlag a b)).toNat = if a.toNat + b.toNat > 255 then 1 else 0 := by
  simp only [flagByte_toNat, carryFlag_iff]

theorem noBorrowFlag_toNat : (flagByte (noBorrowFlag a b)).toNat = if a.toNat ≥ b.toNat then 1 else 0 := by
  simp only [flagByte_toNat, noBorrowFlag_iff]

end

/-! ### What the two forms of register write leave -/

section
variable {i : Instr} {s : State} {x : Reg} {b : Byte} {f : Bool}

/-- The forms without a flag: `P` says of the byte written what the claim says of `V[x]`. -/
theorem exec_of_setReg (P : Byte → Prop) (h : exec i s = .next (s.setReg x b).advance) (hb : P b) :
    ∃ t, exec i s = .next t ∧ P (t.reg x) ∧ t.pc = s.pc + 2 ∧ RegsUnchangedBut [x] s t ∧ UnchangedBut [] s t :=
  ⟨_, h, by rwa [State.advance_reg, State.reg_setReg_self], rfl,
    (RegsUnchangedBut.refl _ s).setReg (List.mem_singleton_self x), ((UnchangedBut.refl _ s).setReg x b).advance⟩

/-- The forms with a flag, which is written last: with `x = F` the result is lost and `VF` holds the flag (R13, D10). -/
theorem exec_of_setRegFlag (P : Byte → Prop) {n : Nat} (h : exec i s = .next (s.setRegFlag x b f).advance) (hb : P b)
    (hf : (flagByte f).toNat = n) :
    ∃ t, exec i s = .next t ∧ (x ≠ flagReg → P (t.reg x)) ∧ (t.reg flagReg).toNat = n ∧ t.pc = s.pc + 2 ∧
      RegsUnchangedBut [x, flagReg] s t ∧ UnchangedBut [] s t := by
  refine ⟨_, h, fun hx => ?_, ?_, rfl, (RegsUnchangedBut.refl _ s).setRegFlag (by simp) (by simp),
    ((UnchangedBut.refl _ s).setRegFlag x b f).advance⟩
  · rwa [State.advance_reg, State.reg_setRegFlag, if_neg hx, if_pos rfl]
  · rwa [State.advance_reg, State.reg_setRegFlag, if_pos rfl]

end

end Sys2Proof.Machine

open Sys2Proof Sys2Proof.Machine

/-- Settles O37: both write `V[x]` with no flag; a sum of bytes is taken modulo 256. -/
theorem immediateLoadAndAdd : Obligations.ImmediateLoadAndAdd := fun x nn s =>
  ⟨encodedAs_encode (.ldImm x nn), encodedAs_encode (.addImm x nn), exec_of_setReg (· = nn) rfl rfl,
    exec_of_setReg (·.toNat = ((s.reg x).toNat + nn.toNat) % 256) rfl (BitVec.toNat_add _ _)⟩

/-- Settles O38: all four write `V[x]` with no flag, and the operators on bytes work bit by bit. -/
theorem copyAndLogicOfRegisters : Obligations.CopyAndLogicOfRegisters := fun x y s =>
  ⟨encodedAs_encode (.ldReg x y), encodedAs_encode (.orReg x y), encodedAs_encode (.andReg x y),
    encodedAs_encode (.xorReg x y), exec_of_setReg (· = s.reg y) rfl rfl,
    exec_of_setReg (fun r => ∀ k, r.getLsbD k = ((s.reg x).getLsbD k || (s.reg y).getLsbD k)) rfl
      fun _ => BitVec.getLsbD_or,
    exec_of_setReg (fun r => ∀ k, r.getLsbD k = ((s.reg x).getLsbD k && (s.reg y).getLsbD k)) rfl
      fun _ => BitVec.getLsbD_and,
    exec_of_setReg (fun r => ∀ k, r.getLsbD k = ((s.reg x).getLsbD k ^^ (s.reg y).getLsbD k)) rfl
      fun _ => BitVec.getLsbD_xor⟩

/-- Settles O39: the sum of bytes is taken modulo 256, and the carry is written last. -/
theorem addWritesSumThenCarry : Obligations.AddWritesSumThenCarry := fun x y s =>
  ⟨encodedAs_encode (.addReg x y),
    exec_of_setRegFlag (·.toNat = ((s.reg x).toNat + (s.reg y).toNat) % 256) rfl (BitVec.toNat_add _ _)
      (carryFlag_toNat _ _)⟩

/-- Settles O40: both take a difference of bytes, in the two orders, and write whether there was no borrow last. -/
theorem subtractWritesDifferenceThenNoBorrow : Obligations.SubtractWritesDifferenceThenNoBorrow := fun x y s =>
  ⟨encodedAs_encode (.subReg x y), encodedAs_encode (.subn x y),
    exec_of_setRegFlag (fun d => (d.toNat : Int) = ((s.reg x).toNat - (s.reg y).toNat) % 256) rfl
      (sub_toNat_eq_emod _ _) (noBorrowFlag_toNat _ _),
    exec_of_setRegFlag (fun d => (d.toNat : Int) = ((s.reg y).toNat - (s.reg x).toNat) % 256) rfl
      (sub_toNat_eq_emod _ _) (noBorrowFlag_toNat _ _)⟩

/-- Settles O41: both shift `V[x]` by one, whatever `y` is, and write the bit shifted out last. -/
theorem shiftsWriteResultThenShiftedBit : Obligations.ShiftsWriteResultThenShiftedBit := fun x y s =>
  ⟨encodedAs_encode (.shr x y), encodedAs_encode (.shl x y),
    exec_of_setRegFlag (·.toNat = (s.reg x).toNat / 2) rfl (ushiftRight_one_toNat _) (lowBitFlag_toNat _),
    exec_of_setRegFlag (·.toNat = 2 * (s.reg x).toNat % 256) rfl (shiftLeft_one_toNat _) (highBitFlag_toNat _)⟩

/-- Settles O42: a write of `V[x]` with no flag, and the draw counter, the one other field, goes up by one. -/
theorem randomWritesAFreshDrawMasked : Obligations.RandomWritesAFreshDrawMasked := fun x nn s =>
  have hreg : RegsUnchangedBut [x] s (s.setReg x (Config.randomByte s.draws &&& nn)) :=
    (RegsUnchangedBut.refl _ s).setReg (List.mem_singleton_self x)
  ⟨encodedAs_encode (.rnd x nn), _, rfl, s.reg_setReg_self x _, rfl, rfl, hreg,
    { UnchangedBut.refl _ s with draws := fun hn => absurd (List.mem_singleton_self _) hn }⟩

end

section
/-! The address register and memory transfer: what is written to `I`, what a store and a load of registers leave, and the
faults of a range that does not fit (R64, R180 to R185). -/

namespace Sys2Proof.Machine

/-! ### Frames of the operations on `I`, memory and the register file -/

section
variable {fs : List Field} {s t : State}

theorem UnchangedBut.setI (h : UnchangedBut fs s t) (hi : .i ∈ fs) (a : Word) : UnchangedBut fs s (t.setI a) :=
  { h with i := fun hn => absurd hi hn }

theorem UnchangedBut.storeBytes (h : UnchangedBut fs s t) (hm : .mem ∈ fs) (a : Nat) (bytes : List Byte) :
    UnchangedBut fs s (t.storeBytes a bytes) :=
  { h with mem := fun hn => absurd hm hn }

theorem UnchangedBut.setRegFile (h : UnchangedBut fs s t) (v : Vector Byte 16) : UnchangedBut fs s { t with v := v } :=
  { h with }

end

/-! ### Writes of `I` -/

/-- R181: the sum modulo 2^16. -/
theorem add_zextByte_toNat (a : Word) (b : Byte) : (a + zextByte b).toNat = (a.toNat + b.toNat) % 65536 := by
  rw [BitVec.toNat_add, zextByte_toNat]

section
variable {i : Instr} {s : State}

theorem exec_of_setI {a : Word} {n : Nat} (h : exec i s = .next (s.setI a).advance) (hn : a.toNat = n) :
    ∃ t, exec i s = .next t ∧ t.i.toNat = n ∧ t.pc = s.pc + 2 ∧ RegsUnchangedBut [] s t ∧ UnchangedBut [.i] s t :=
  ⟨_, h, hn, rfl, .refl _ s, ((UnchangedBut.refl _ s).setI (List.mem_singleton_self _) a).advance⟩

/-! ### Stores from `I` up -/

/-- Byte `k` of a range stored from `I` is read back at the data address `I + k` (R63, R64). -/
theorem State.readByte_dataAddr_storeBytes {bytes : List Byte} {k : Nat}
    (hmem : Memory.wf s.params.font s.params.memSize s.mem = true)
    (hfits : s.dataAddr 0 + bytes.length ≤ s.params.memSize) (hk : k < bytes.length) :
    (s.storeBytes (s.dataAddr 0) bytes).readByte (s.dataAddr k) = bytes.getD k 0 := by
  have hin : s.dataAddr 0 ≤ s.dataAddr k ∧ s.dataAddr k < s.dataAddr 0 + bytes.length := by
    simp only [State.dataAddr]
    omega
  have hoffset : s.dataAddr k - s.dataAddr 0 = k := by
    simp only [State.dataAddr]
    omega
  rw [State.readByte_storeBytes hmem hfits, if_pos hin, hoffset]

/-- An instruction that stores `len` bytes from `I` writes those bytes and no other, and leaves `I` (R183, R184). -/
theorem exec_of_storeBytes {bytes : List Byte} {len : Nat}
    (h : exec i s = .next (s.storeBytes (s.dataAddr 0) bytes).advance) (hlen : bytes.length = len)
    (hmem : Memory.wf s.params.font s.params.memSize s.mem = true) (hfits : s.dataAddr 0 + len ≤ s.params.memSize) :
    ∃ t, exec i s = .next t ∧ (∀ k, k < len → t.readByte (s.dataAddr k) = bytes.getD k 0) ∧
      MemUnchangedOutside (s.dataAddr 0) len s t ∧ t.pc = s.pc + 2 ∧ RegsUnchangedBut [] s t ∧
      UnchangedBut [.mem] s t := by
  subst hlen
  exact ⟨_, h, fun k hk => State.readByte_dataAddr_storeBytes hmem hfits hk,
    (MemAfter.stored bytes rfl hfits rfl).unchangedOutside rfl hmem, rfl, .refl _ s,
    ((UnchangedBut.refl _ s).storeBytes (List.mem_singleton_self _) _ bytes).advance⟩

end

/-! ### The three memory transfers, when their range fits -/

section
variable {x : Reg} {s : State}

theorem exec_ldBVx_of_inside (hmem : Memory.wf s.params.font s.params.memSize s.mem = true)
    (h : s.i.toNat + 2 < s.params.memSize) :
    ∃ t, exec (.ldBVx x) s = .next t ∧ (∀ k, k < 3 → t.readByte (s.dataAddr k) = (bcdDigits (s.reg x)).getD k 0) ∧
      MemUnchangedOutside (s.dataAddr 0) 3 s t ∧ t.pc = s.pc + 2 ∧ RegsUnchangedBut [] s t ∧ UnchangedBut [.mem] s t :=
  exec_of_storeBytes (if_pos ((s.rangeFits_succ 2).2 h)) rfl hmem h

theorem exec_ldMemVx_of_inside (hmem : Memory.wf s.params.font s.params.memSize s.mem = true)
    (h : s.i.toNat + x.val < s.params.memSize) :
    ∃ t, exec (.ldMemVx x) s = .next t ∧ (∀ r : Reg, r ≤ x → t.readByte (s.dataAddr r.val) = s.reg r) ∧
      MemUnchangedOutside (s.dataAddr 0) (x.val + 1) s t ∧ t.pc = s.pc + 2 ∧
      RegsUnchangedBut [] s t ∧ UnchangedBut [.mem] s t := by
  have hexec : exec (.ldMemVx x) s = .next (s.storeBytes (s.dataAddr 0) (s.regsUpTo x)).advance :=
    if_pos ((s.rangeFits_succ x.val).2 h)
  obtain ⟨t, ht, hread, hframe⟩ := exec_of_storeBytes hexec (s.regsUpTo_length x) hmem h
  exact ⟨t, ht, fun r hr => (hread r.val (Nat.lt_succ_of_le hr)).trans (s.regsUpTo_getD x r hr), hframe⟩

theorem exec_ldVxMem_of_inside (h : s.i.toNat + x.val < s.params.memSize) :
    ∃ t, exec (.ldVxMem x) s = .next t ∧
      (∀ r : Reg, t.reg r = if r ≤ x then s.readByte (s.dataAddr r.val) else s.reg r) ∧
      t.pc = s.pc + 2 ∧ UnchangedBut [] s t := by
  refine ⟨_, if_pos ((s.rangeFits_succ x.val).2 h), fun r => ?_, rfl, ((UnchangedBut.refl _ s).setRegFile _).advance⟩
  have hr : r ≤ x ↔ r.val < x.val + 1 := Nat.lt_succ_iff.symm
  simp only [hr]
  exact s.loadRegs_get (x.val + 1) r

end

end Sys2Proof.Machine

open Sys2Proof Sys2Proof.Machine

/-- Settles O43: the three writes of `I`; `nnn` and `5 * V[x]` fit 16 bits, so only the sum is taken modulo 2^16. -/
theorem addressRegisterWrites : Obligations.AddressRegisterWrites :=
  ⟨fun nnn _ => ⟨encodedAs_encode (.ldI nnn), exec_of_setI rfl (zextAddr_toNat nnn)⟩,
    fun x s => ⟨encodedAs_encode (.addIVx x), exec_of_setI rfl (add_zextByte_toNat s.i (s.reg x))⟩,
    fun x s => ⟨encodedAs_encode (.ldFVx x), exec_of_setI rfl (glyphAddr_toNat (s.reg x))⟩⟩

/-- Settles O44, by whether the three addresses fit: the stored bytes are the digits, and the fault is that of the
instruction's own check. -/
theorem bcdStoresThreeDigits : Obligations.BcdStoresThreeDigits := by
  refine fun x s => ⟨encodedAs_encode (.ldBVx x), fun hmem hin => ?_, fun hout => exec_of_ownCheck (if_pos hout)⟩
  obtain ⟨t, ht, hread, hframe⟩ := exec_ldBVx_of_inside hmem hin
  obtain ⟨hhundreds, htens, hones⟩ := bcdDigits_getD (s.reg x)
  refine ⟨t, ht, ?_, ?_, ?_, hframe⟩
  · rw [hread 0 (by decide), hhundreds]
  · rw [hread 1 (by decide), htens]
  · rw [hread 2 (by decide), hones]

/-- Settles O45, by whether the addresses up to `I + x` fit. -/
theorem storeRegistersWritesV0ToVx : Obligations.StoreRegistersWritesV0ToVx := fun x _ =>
  ⟨encodedAs_encode (.ldMemVx x), exec_ldMemVx_of_inside, fun hout => exec_of_ownCheck (if_pos hout)⟩

/-- Settles O46, by whether the addresses up to `I + x` fit. -/
theorem loadRegistersReadsV0ToVx : Obligations.LoadRegistersReadsV0ToVx := by
  refine fun x s => ⟨encodedAs_encode (.ldVxMem x), fun hin => ?_, fun hout => exec_of_ownCheck (if_pos hout)⟩
  obtain ⟨t, ht, hregs, hframe⟩ := exec_ldVxMem_of_inside hin
  exact ⟨t, ht, fun r hr => (hregs r).trans (if_pos hr), fun r hr => (hregs r).trans (if_neg (Fin.not_le.2 hr)), hframe⟩

/-- Settles O47: the store left `I` and the parameters, so the load completes at the same addresses, which hold what was
stored. -/
theorem loadAfterStoreRestoresRegisters : Obligations.LoadAfterStoreRestoresRegisters := by
  intro x s t v pc hmem hin hstore
  obtain ⟨t', ht', hread, -, -, -, hstored⟩ := exec_ldMemVx_of_inside hmem hin
  cases ht'.symm.trans hstore
  have hi : t.i = s.i := hstored.i (by decide)
  have hin' : t.i.toNat + x.val < t.params.memSize := by rw [hi, hstored.params]; exact hin
  obtain ⟨u, hu, hregs, -, hloaded⟩ := exec_ldVxMem_of_inside (s := { t with v := v, pc := pc }) hin'
  refine ⟨u, hu, (hloaded.i (by decide)).trans hi, fun r => (hregs r).trans ?_⟩
  split
  · next hr =>
    calc t.readByte (t.dataAddr r.val)
      _ = t.readByte (s.dataAddr r.val) := by rw [State.dataAddr, hi, State.dataAddr]
      _ = s.reg r := hread r hr
  · rfl

end

section
/-! The display instructions: what a clear and a sprite draw leave, and why a second draw of the same sprite undoes the first
(R200 to R204). -/

namespace Sys2Proof.Machine

/-! ### Frames of the operations on the display and the output ports -/

section
variable {fs : List Field} {s t : State}

theorem UnchangedBut.setDisplay (h : UnchangedBut fs s t) (hd : .display ∈ fs) (d : Display) :
    UnchangedBut fs s { t with display := d } := { h with display := fun hn => absurd hd hn }

theorem UnchangedBut.emit (h : UnchangedBut fs s t) (ho : .out ∈ fs) (o : List Output) : UnchangedBut fs s (t.emit o) :=
  { h with out := fun hn => absurd ho hn }

/-- A new framebuffer and the Surface calls for it, which `00E0` and `DXYN` have in common (R200, R204). -/
theorem unchangedBut_setDisplay_emit (s : State) (d : Display) (o : List Output) :
    UnchangedBut [.display, .out] s ({ s with display := d }.emit o) :=
  ((UnchangedBut.refl _ s).setDisplay (by decide) d).emit (by decide) o

/-- The sprite is read from `I` and memory alone (R201). -/
theorem UnchangedBut.spriteBit_eq (h : UnchangedBut fs s t) (hi : .i ∉ fs) (hm : .mem ∉ fs) (x0 y0 n cx cy : Nat) :
    t.spriteBit x0 y0 n cx cy = s.spriteBit x0 y0 n cx cy := by
  simp only [State.spriteBit, State.dataAddr, h.i hi, h.mem hm]

end

/-! ### A sprite draw -/

/-- A flag that holds exactly when `p` does, as the byte written to `VF` (R21). -/
theorem flagByte_of_iff {b : Bool} {p : Prop} (h : b = true ↔ p) : (p → flagByte b = 1) ∧ (¬ p → flagByte b = 0) := by
  cases b <;> simp [flagByte, ← h]

/-- A draw whose row addresses all lie in memory, in the terms of R201 to R204. -/
theorem exec_drw_of_inside {x y : Reg} {n : RowCount} {s : State}
    (h : n.val = 0 ∨ s.i.toNat + n.val - 1 < s.params.memSize) :
    ∃ t, exec (.drw x y n) s = .next t ∧
      (∀ cx cy, cx < 64 → cy < 32 → t.display.cell cx cy =
        (s.display.cell cx cy ^^ s.spriteBit (s.reg x).toNat (s.reg y).toNat n.val cx cy)) ∧
      (s.spriteCollides (s.reg x).toNat (s.reg y).toNat n.val → t.reg flagReg = 1) ∧
      (¬ s.spriteCollides (s.reg x).toNat (s.reg y).toNat n.val → t.reg flagReg = 0) ∧
      t.out = s.out ++ s.spriteCalls (s.reg x).toNat (s.reg y).toNat n.val ∧ t.pc = s.pc + 2 ∧
      RegsUnchangedBut [flagReg] s t ∧ UnchangedBut [.display, .out] s t := by
  have hfits : s.rangeFits n.val = true := by
    rw [State.rangeFits_iff]
    omega
  obtain ⟨hcell, hcoll, hcalls⟩ := s.drawRows_spec (s.reg x).toNat (s.reg y).toNat n.val
  obtain ⟨hset, hclear⟩ := flagByte_of_iff hcoll
  refine ⟨_, if_pos hfits, fun cx cy hx hy => ?_, fun hc => ?_, fun hc => ?_, congrArg (s.out ++ ·) hcalls, rfl,
    (RegsUnchangedBut.refl _ s).setReg (List.mem_singleton_self flagReg),
    ((unchangedBut_setDisplay_emit s _ _).setReg flagReg _).advance⟩
  · exact (hcell cx cy).trans (by rw [decide_eq_true ⟨hx, hy⟩, Bool.true_and])
  · rw [State.advance_reg, State.reg_setFlag_flag, hset hc]
  · rw [State.advance_reg, State.reg_setFlag_flag, hclear hc]

end Sys2Proof.Machine

open Sys2Proof Sys2Proof.Machine

/-- Settles O49, by whether every row address lies in memory; the fault is that of the instruction's own check. -/
theorem drawTogglesTheCellsUnderTheSprite : Obligations.DrawTogglesTheCellsUnderTheSprite := fun x y n _ =>
  ⟨encodedAs_encode (.drw x y n), exec_drw_of_inside, fun hn hout => exec_of_ownCheck (if_pos ⟨hn, hout⟩)⟩

/-- Settles O50: the first draw leaves the sprite as it was, so the second toggles the same cells back, and a cell that was
off at first is on when the second draw comes to it. -/
theorem drawingTwiceRestoresTheFramebuffer : Obligations.DrawingTwiceRestoresTheFramebuffer := by
  intro x y n s t u hin hfirst hx hy hsecond
  obtain ⟨t', ht', tcell, -, -, -, -, -, hframe⟩ := exec_drw_of_inside (x := x) (y := y) hin
  cases ht'.symm.trans hfirst
  have hin' : n.val = 0 ∨ t.i.toNat + n.val - 1 < t.params.memSize := by
    rw [hframe.i (by decide), hframe.params]
    exact hin
  obtain ⟨u', hu', ucell, hflag, -⟩ := exec_drw_of_inside (x := x) (y := y) hin'
  cases hu'.symm.trans hsecond
  have hsprite := hframe.spriteBit_eq (by decide) (by decide)
  simp only [hx, hy, State.spriteCollides, hsprite] at ucell hflag
  refine ⟨Display.ext_cells fun cx cy hcx hcy => ?_, fun ⟨cx, cy, hcx, hcy, hbit, hoff⟩ => ?_⟩
  · rw [ucell cx cy hcx hcy, tcell cx cy hcx hcy, Bool.xor_assoc, Bool.xor_self, Bool.xor_false]
  · have hon : t.display.cell cx cy = true := by rw [tcell cx cy hcx hcy, hbit, hoff, Bool.false_xor]
    exact hflag ⟨cx, cy, hcx, hcy, hbit, hon⟩

/-- Settles O48: the framebuffer and the output ports are the only fields written. -/
theorem clearScreenTurnsEveryCellOff : Obligations.ClearScreenTurnsEveryCellOff :=
  ⟨encodedAs_encode .cls, fun s => ⟨_, rfl, Display.cell_cleared, rfl, rfl, .refl _ s,
    (unchangedBut_setDisplay_emit s Display.cleared [.clear]).advance⟩⟩

end

section
/-! Key input and timers: the skips on a key, the timer accesses, and the wait for a key, which goes on tick by tick while no
key comes (R220 to R226, R253, R256). -/

namespace Sys2Proof.Machine

/-! ### Frames of the writes to the timers, the latch and the suspend result -/

section
variable {fs : List Field} {s t : State}

theorem UnchangedBut.setDt (h : UnchangedBut fs s t) (hd : .dt ∈ fs) (b : Byte) : UnchangedBut fs s { t with dt := b } :=
  { h with dt := fun hn => absurd hd hn }

theorem UnchangedBut.setSt (h : UnchangedBut fs s t) (hd : .st ∈ fs) (b : Byte) : UnchangedBut fs s { t with st := b } :=
  { h with st := fun hn => absurd hd hn }

theorem UnchangedBut.setLatch (h : UnchangedBut fs s t) (hl : .latch ∈ fs) (k : Option Key) :
    UnchangedBut fs s { t with latch := k } := { h with latch := fun hn => absurd hl hn }

theorem UnchangedBut.setSuspend (h : UnchangedBut fs s t) (hs : .suspend ∈ fs) (b : Bool) :
    UnchangedBut fs s { t with suspend := b } := { h with suspend := fun hn => absurd hs hn }

end

/-! ### What `exec` answers on a key -/

section
variable {x : Reg} {k : Key} {s : State}

theorem exec_skp_of_key (h : (s.reg x).toNat = k.val) : exec (.skp x) s = .next (s.skipIf s.pressed[k]) := by
  simp only [exec, execSkp, keyOfByte_eq_some.2 h]

theorem exec_sknp_of_key (h : (s.reg x).toNat = k.val) : exec (.sknp x) s = .next (s.skipIf (!s.pressed[k])) := by
  simp only [exec, execSknp, keyOfByte_eq_some.2 h]

theorem exec_ldVxK_of_empty (h : s.latch = none) : exec (.ldVxK x) s = .next { s with suspend := true } := by
  simp only [exec, execLdVxK, h]

theorem exec_ldVxK_of_latched (h : s.latch = some k) :
    exec (.ldVxK x) s = .next { s.setReg x (byteOfKey k) with latch := none }.advance := by
  simp only [exec, execLdVxK, h]

end

/-! ### One waiting tick -/

section
variable {s : State}

/-- A waiting `FX0A` is counted, though it suspends (R252, R253). -/
theorem step_of_waiting {x : Reg} (hd : s.dispatching) (hin : s.pc.toNat + 1 < s.params.memSize)
    (hi : decode s.fetchWord = .ok (.ldVxK x)) (hl : s.latch = none) :
    step s = .next { s with suspend := true, count := s.count + 1 } := by
  have hrun : s.run = .running := (State.inBatch_iff.1 hd.2).1
  rw [step_of_exec hd hin hi (exec_ldVxK_of_empty hl), if_pos hrun]

theorem State.inBatch_of_suspend (h : s.suspend = true) : s.inBatch = false := by
  rw [State.inBatch, h, Bool.not_true, Bool.and_false]

/-- A tick with no event and no quit pending keeps the key state and goes on running (R258, R259). -/
theorem State.endTick_of_noEvent (he : s.events.headD [] = []) (hq : s.quitPending = false) :
    s.endTick =
      { s with
        dt := timerTick s.dt, st := timerTick s.st, out := s.out ++ [.beep (s.st == 1), .present]
        events := s.events.tail, count := 0, suspend := false } := by
  rw [s.endTick_eq, he, List.foldl_nil, hq, if_neg Bool.false_ne_true]

/-- A core that runs on begins its next batch from 0, and `BATCH_SIZE` is at least 1 (R8, R34, R250). -/
theorem State.dispatching_of_batchStart (h : s.ready) (hrun : s.run = .running) (hcount : s.count = 0)
    (hsuspend : s.suspend = false) : s.dispatching := by
  have hroom : s.count < s.params.batchSize := hcount ▸ Config.one_le_batchSize h.1
  exact ⟨h, State.inBatch_iff.2 ⟨hrun, hroom, hsuspend⟩⟩

/-- After a suspended batch a tick with no event and no quit pending leads to the next batch, at the same `pc` in the same
memory (R250, R253, R256). -/
theorem step_of_suspended (h : s.ready) (hrun : s.run = .running) (hs : s.suspend = true) (hq : s.quitPending = false)
    (he : s.events.headD [] = []) :
    ∃ u, step s = .next u ∧ u.dispatching ∧ u.pc = s.pc ∧ u.fetchWord = s.fetchWord ∧ u.latch = s.latch ∧
      u.dt.toNat = s.dt.toNat - 1 := by
  have hstep : step s = .next s.endTick := step_of_endingTick ⟨h, .inl ⟨hrun, State.inBatch_of_suspend hs⟩⟩
  rw [State.endTick_of_noEvent he hq] at hstep
  exact ⟨_, hstep, State.dispatching_of_batchStart h hrun rfl rfl, rfl, rfl, rfl, timerTick_toNat s.dt⟩

end

end Sys2Proof.Machine

open Sys2Proof Sys2Proof.Machine

/-- Settles O54: the first step suspends and counts, so the second ends the tick, and the next batch finds the same `pc`,
memory and latch. -/
theorem waitingCoreStaysAtItsFX0A : Obligations.WaitingCoreStaysAtItsFX0A := by
  intro s x hd hin hi hl hq he
  have hrun : s.run = .running := (State.inBatch_iff.1 hd.2).1
  obtain ⟨u, hu, hnext, hpc, hword, hlatch, hdt⟩ :=
    step_of_suspended (s := { s with suspend := true, count := s.count + 1 }) hd.1 hrun rfl hq he
  exact ⟨_, u, step_of_waiting hd hin hi hl, State.inBatch_of_suspend rfl, rfl, rfl, hu, hnext, hpc, hword,
    hlatch.trans hl, hdt⟩

/-- Settles O51, by whether `V[x]` names a key; the fault is that of the instruction's own check. -/
theorem skipsOnKeys : Obligations.SkipsOnKeys := fun x _ =>
  ⟨encodedAs_encode (.skp x), encodedAs_encode (.sknp x),
    fun _ hk => ⟨exec_of_skipIf (exec_skp_of_key hk) Iff.rfl,
      exec_of_skipIf (exec_sknp_of_key hk) (iff_of_eq (Bool.not_eq_true' _))⟩,
    fun hout => ⟨exec_of_ownCheck (if_pos hout), exec_of_ownCheck (if_pos hout)⟩⟩

/-- Settles O52: a write of a register, and two writes of a timer. -/
theorem timerReadsAndWrites : Obligations.TimerReadsAndWrites := fun x s =>
  ⟨encodedAs_encode (.ldVxDT x), encodedAs_encode (.ldDTVx x), encodedAs_encode (.ldSTVx x),
    exec_of_setReg (· = s.dt) rfl rfl,
    ⟨_, rfl, rfl, rfl, .refl _ s, ((UnchangedBut.refl _ s).setDt (List.mem_singleton_self _) (s.reg x)).advance⟩,
    ⟨_, rfl, rfl, rfl, .refl _ s, ((UnchangedBut.refl _ s).setSt (List.mem_singleton_self _) (s.reg x)).advance⟩⟩

/-- Settles O53, by whether the latch is empty. -/
theorem waitForKeySuspendsOrConsumes : Obligations.WaitForKeySuspendsOrConsumes := by
  refine fun x s => ⟨encodedAs_encode (.ldVxK x), fun hl => ?_, fun k hl => ?_⟩
  · exact ⟨_, exec_ldVxK_of_empty hl, rfl, rfl, .refl _ s,
      (UnchangedBut.refl _ s).setSuspend (List.mem_singleton_self _) true⟩
  · have hkey : ((s.setReg x (byteOfKey k)).reg x).toNat = k.val := by rw [State.reg_setReg_self, byteOfKey_toNat]
    exact ⟨_, exec_ldVxK_of_latched hl, hkey, rfl, rfl,
      (RegsUnchangedBut.refl _ s).setReg (List.mem_singleton_self x),
      (((UnchangedBut.refl _ s).setReg x (byteOfKey k)).setLatch (List.mem_singleton_self _) none).advance⟩

end

section
/-! Steps and runs: a ready core is never stuck (R251, R241), and in an ended or unloaded core nothing changes. -/

namespace Sys2Proof.Machine

/-! ### An instruction and a `Step()` always answer a next state -/

/-- The fault of an instruction's own check is a next state too (R241). -/
theorem exec_total (i : Instr) (s : State) : ∃ t, exec i s = .next t := by
  cases hc : ownCheck i s with
  | some r => exact ⟨_, exec_of_ownCheck hc⟩
  | none =>
    obtain ⟨t, ht, -⟩ := exec_completes hc
    exact ⟨t, ht⟩

theorem runWord_total (w : Word) (s : State) : ∃ t, runWord w s = .next t := by
  cases hi : decode w with
  | error e => exact ⟨_, runWord_of_unknown hi⟩
  | ok i =>
    obtain ⟨u, hu⟩ := exec_total i s
    exact ⟨u.countInstr, by rw [runWord, hi]; exact countOutcome_eq_next.2 ⟨u, hu, rfl⟩⟩

theorem dispatcherStep_total (s : State) : ∃ t, dispatcherStep s = .next t := by
  by_cases hout : s.params.memSize ≤ s.pc.toNat
  · exact ⟨_, dispatcherStep_of_outside hout⟩
  by_cases hlast : s.pc.toNat = s.params.memSize - 1
  · exact ⟨_, dispatcherStep_of_straddling (Nat.lt_of_not_le hout) hlast⟩
  rw [dispatcherStep_of_inside (by omega)]
  exact runWord_total s.fetchWord s

/-! ### The kinds of a ready core -/

section
variable {s t : State}

/-- What is next for a ready core, by its run state: the load or the wait, a `Step()`, the end of a tick, or nothing
(R251). -/
theorem State.ready.cases (h : s.ready) :
    s.run = .unloaded ∨ s.dispatching ∨ s.endingTick ∨ s.failed ∨ s.runEnded := by
  cases hrun : s.run with
  | unloaded => exact .inl rfl
  | running =>
    cases hb : s.inBatch with
    | true => exact .inr (.inl ⟨h, hb⟩)
    | false => exact .inr (.inr (.inl ⟨h, .inl ⟨hrun, hb⟩⟩))
  | halted => exact .inr (.inr (.inl ⟨h, .inr hrun⟩))
  | faulted r => exact .inr (.inr (.inr (.inl (.inl ⟨r, hrun⟩))))
  | loadFailed r => exact .inr (.inr (.inr (.inl (.inr ⟨r, hrun⟩))))
  | stopped => exact .inr (.inr (.inr (.inr hrun)))

theorem State.ready.step_total (h : s.ready) : ∃ t, step s = .next t := by
  obtain hrun | hd | he | hended := h.cases
  · exact ⟨_, step_of_unloaded h.1 hrun⟩
  · rw [step_of_dispatching hd]
    exact dispatcherStep_total s
  · exact ⟨_, step_of_endingTick he⟩
  · exact ⟨_, step_of_ended h hended⟩

/-- With no ROM offered an unloaded core waits (R251; log 5). -/
theorem step_of_waitingForRom (h : s.ready) (hrun : s.run = .unloaded) : step s = .next s := by
  rw [step_of_unloaded h.1 hrun, boot_of_none h.2]

/-! ### Runs -/

/-- A run by its last step. -/
theorem RunsTo_succ_last {k : Nat} : RunsTo (k + 1) s t ↔ ∃ u, RunsTo k s u ∧ step u = .next t := by
  induction k generalizing s with
  | zero => simp [RunsTo_succ, RunsTo_zero]
  | succ k ih =>
    rw [RunsTo_succ]
    simp only [ih]
    constructor
    · rintro ⟨v, hv, u, hu, ht⟩
      exact ⟨u, RunsTo_succ.2 ⟨v, hv, hu⟩, ht⟩
    · rintro ⟨u, hu, ht⟩
      obtain ⟨v, hv, hu⟩ := RunsTo_succ.1 hu
      exact ⟨v, hv, u, hu, ht⟩

/-- What every step keeps, every run keeps. -/
theorem RunsTo.keeps {P : State → Prop} (hstep : ∀ u v, P u → step u = .next v → P v) {k : Nat} (h : RunsTo k s t)
    (hs : P s) : P t := by
  induction k generalizing t with
  | zero => rwa [RunsTo_zero.1 h]
  | succ k ih =>
    obtain ⟨u, hu, ht⟩ := RunsTo_succ_last.1 h
    exact hstep u t (ih hu) ht

end

end Sys2Proof.Machine

open Sys2Proof.Machine

/-- Settles O10, by the kinds of a ready core: the load or the wait, a `Step()`, the end of a tick, an ended core. -/
theorem everyReadyCoreHasANextState : Obligations.EveryReadyCoreHasANextState := fun _ h => h.step_total

/-- Settles O11: one step leaves such a core as it is, so any number does. -/
theorem endedOrUnloadedCoreNeverChanges : Obligations.EndedOrUnloadedCoreNeverChanges := by
  intro s h hkind
  refine RunsTo_of_fixed ?_
  obtain hfailed | hended | hrun := hkind
  · exact step_of_ended h (.inl hfailed)
  · exact step_of_ended h (.inr hended)
  · exact step_of_waitingForRom h hrun

end

section
/-! The end of a tick: what the poll's events leave, what the step leaves of each part of the state, and runs of ticks in a
halted core (R250, R255 to R260). -/

namespace Sys2Proof.Machine

/-! ### The input poll (R258) -/

section
variable (s : State) (es : List HostEvent)

theorem State.hostEvent_setEvents (e : HostEvent) (l : List (List HostEvent)) :
    { s with events := l }.hostEvent e = { s.hostEvent e with events := l } := by
  cases e with
  | keyDown k =>
    simp only [State.hostEvent]
    split <;> rfl
  | keyUp k => rfl
  | quit => rfl

/-- What the events of a poll do does not depend on the events port. -/
theorem State.hostEvents_setEvents (l : List (List HostEvent)) :
    es.foldl State.hostEvent { s with events := l } = { es.foldl State.hostEvent s with events := l } := by
  induction es generalizing s with
  | nil => rfl
  | cons e rest ih => rw [List.foldl_cons, s.hostEvent_setEvents e l, ih, List.foldl_cons]

/-- A poll takes the port's first list, whose events act in order. -/
theorem State.poll_of_events (rest : List (List HostEvent)) :
    { s with events := es :: rest }.poll = { es.foldl State.hostEvent s with events := rest } := by
  rw [State.poll, s.hostEvents_setEvents]
  rfl

section
variable {s} {k : Key}

theorem State.hostEvent_keyDown_of_pressed (h : s.pressed[k] = true) : s.hostEvent (.keyDown k) = s := by
  rw [State.hostEvent, if_pos h]

theorem State.hostEvent_keyDown_of_released (h : ¬ s.pressed[k] = true) :
    s.hostEvent (.keyDown k) = { s with pressed := s.pressed.set k true, latch := some k } := by
  rw [State.hostEvent, if_neg h]

end

/-- A `KeyDown` leaves its key pressed, whether or not it was. -/
theorem State.hostEvent_keyDown_pressed (k : Key) : (s.hostEvent (.keyDown k)).pressed = s.pressed.set k true := by
  by_cases h : s.pressed[k] = true
  · rw [State.hostEvent_keyDown_of_pressed h, ← h]
    exact (Vector.set_getElem_self _).symm
  · rw [State.hostEvent_keyDown_of_released h]

/-- A `KeyDown` latches its key on a transition from released to pressed only. -/
theorem State.hostEvent_keyDown_latch (k : Key) :
    (s.hostEvent (.keyDown k)).latch = if s.pressed[k] = true then s.latch else some k := by
  by_cases h : s.pressed[k] = true
  · rw [State.hostEvent_keyDown_of_pressed h, if_pos h]
  · rw [State.hostEvent_keyDown_of_released h, if_neg h]

theorem State.hostEvent_keyDown_quitPending (k : Key) : (s.hostEvent (.keyDown k)).quitPending = s.quitPending := by
  by_cases h : s.pressed[k] = true
  · rw [State.hostEvent_keyDown_of_pressed h]
  · rw [State.hostEvent_keyDown_of_released h]

/-- Is a key pressed after a tick in which `last` is its last event, if it was pressed as `was` says before? -/
def pressedAfter (was : Bool) (last : Option HostEvent) : Bool :=
  match last with
  | some (.keyDown _) => true
  | some _ => false
  | none => was

/-- One more event decides about its own key and no other. -/
theorem State.hostEvent_pressed (e : HostEvent) (k : Key) :
    (s.hostEvent e).pressed[k] =
      if e = .keyDown k ∨ e = .keyUp k then pressedAfter s.pressed[k] (some e) else s.pressed[k] := by
  cases e with
  | keyDown j =>
    simp only [s.hostEvent_keyDown_pressed, Fin.getElem_fin, Vector.getElem_set, HostEvent.keyDown.injEq, Fin.ext_iff,
      reduceCtorEq, or_false, pressedAfter]
  | keyUp j =>
    simp only [State.hostEvent, Fin.getElem_fin, Vector.getElem_set, HostEvent.keyUp.injEq, Fin.ext_iff, reduceCtorEq,
      false_or, pressedAfter]
  | quit => simp only [State.hostEvent, reduceCtorEq, or_self, if_false]

/-- After a poll's events a key is pressed as its last event says, by induction on the last event. -/
theorem State.hostEvents_pressed (k : Key) :
    (es.foldl State.hostEvent s).pressed[k] =
      pressedAfter s.pressed[k] (es.filter fun e => e = .keyDown k ∨ e = .keyUp k).getLast? := by
  induction es using List.reverseRecOn with
  | nil => rfl
  | append_singleton es e ih =>
    rw [List.foldl_concat, State.hostEvent_pressed, List.filter_append]
    by_cases he : e = .keyDown k ∨ e = .keyUp k
    · rw [if_pos he, List.filter_singleton, decide_eq_true he, cond_true, List.getLast?_concat]
      cases e <;> rfl
    · rw [if_neg he, ih, List.filter_singleton, decide_eq_false he, cond_false, List.append_nil]

end

/-! ### The state the end of a tick leaves -/

section
variable (s : State)

theorem State.endTick_dt : s.endTick.dt.toNat = s.dt.toNat - 1 := by
  rw [s.endTick_eq]
  exact timerTick_toNat s.dt

theorem State.endTick_st : s.endTick.st.toNat = s.st.toNat - 1 := by
  rw [s.endTick_eq]
  exact timerTick_toNat s.st

@[simp] theorem State.endTick_romPort : s.endTick.romPort = s.romPort := by rw [s.endTick_eq]
@[simp] theorem State.endTick_events : s.endTick.events = s.events.tail := by rw [s.endTick_eq]
@[simp] theorem State.endTick_pressed :
    s.endTick.pressed = ((s.events.headD []).foldl State.hostEvent s).pressed := by rw [s.endTick_eq]
@[simp] theorem State.endTick_latch :
    s.endTick.latch = ((s.events.headD []).foldl State.hostEvent s).latch := by rw [s.endTick_eq]

/-- A quit is pending after the tick if it was before or came in the tick (R33). -/
theorem State.endTick_quitPending :
    s.endTick.quitPending = (s.quitPending || decide (.quit ∈ s.events.headD [])) := by
  rw [← State.hostEvents_quit, s.endTick_eq]

theorem beq_one_eq_decide_toNat (b : Byte) : (b == 1) = decide (b.toNat = 1) := by
  rw [Bool.eq_iff_iff, beq_iff_eq, decide_eq_true_iff, ← BitVec.toNat_inj]
  rfl

/-- The cue is on exactly in the tick that brings `ST` from 1 to 0, and one `present()` follows it (R255, R273). -/
theorem State.endTick_out : s.endTick.out = s.out ++ [.beep (decide (s.st.toNat = 1)), .present] := by
  rw [← beq_one_eq_decide_toNat, s.endTick_eq]

/-- A pending quit stops the core at the end of the tick (R259). -/
theorem State.endTick_run : s.endTick.run = if s.endTick.quitPending then .stopped else s.run := by
  rw [s.endTick_eq]

end

section
variable {s : State}

theorem State.ready.endTick (h : s.ready) : s.endTick.ready := by
  rwa [State.ready, s.endTick_params, s.endTick_romPort]

/-- With no quit in it or pending, a tick leaves the run state (R259). -/
theorem State.endTick_of_noQuit (hq : s.quitPending = false) (he : .quit ∉ s.events.headD []) :
    s.endTick.quitPending = false ∧ s.endTick.run = s.run := by
  have hpending : s.endTick.quitPending = false := by rw [s.endTick_quitPending, hq, decide_eq_false he, Bool.false_or]
  exact ⟨hpending, by rw [s.endTick_run, hpending, if_neg Bool.false_ne_true]⟩

end

/-! ### A halted core (R260) -/

/-- The parts of the state that are the program's result are the same (R260). -/
structure SameResult (s t : State) : Prop where
  v       : t.v = s.v
  i       : t.i = s.i
  pc      : t.pc = s.pc
  stack   : t.stack = s.stack
  mem     : t.mem = s.mem
  display : t.display = s.display

theorem SameResult.refl (s : State) : SameResult s s := ⟨rfl, rfl, rfl, rfl, rfl, rfl⟩

theorem SameResult.endTick {s t : State} (h : SameResult s t) : SameResult s t.endTick := by
  rw [t.endTick_eq]
  exact { h with }

/-- The program has ended, whether or not the host has quit since. -/
def State.ended (s : State) : Prop := s.ready ∧ (s.programEnded ∨ s.runEnded)

/-- A tick leaves a halted core halted or, by a quit, stopped. -/
theorem State.ready.endTick_ended {s : State} (h : s.ready) (hrun : s.programEnded) : s.endTick.ended := by
  refine ⟨h.endTick, ?_⟩
  cases hq : s.endTick.quitPending with
  | true => exact .inr (by rw [State.runEnded, s.endTick_run, hq, if_pos rfl])
  | false => exact .inl (by rw [State.programEnded, s.endTick_run, hq, if_neg Bool.false_ne_true]; exact hrun)

theorem State.ended.step_keeps {s t u : State} (h : t.ended) (hres : SameResult s t) (hu : step t = .next u) :
    u.ended ∧ SameResult s u := by
  obtain ⟨hready, hrun | hrun⟩ := h
  · rw [step_of_endingTick ⟨hready, .inr hrun⟩] at hu
    cases hu
    exact ⟨hready.endTick_ended hrun, hres.endTick⟩
  · rw [step_of_ended hready (.inr hrun)] at hu
    cases hu
    exact ⟨⟨hready, .inr hrun⟩, hres⟩

/-- A halted core with no quit pending or to come. -/
structure State.HaltedWithoutQuit (s : State) : Prop where
  ready  : s.ready
  halted : s.run = .halted
  quit   : s.quitPending = false
  events : ∀ es ∈ s.events, .quit ∉ es

theorem State.HaltedWithoutQuit.endTick {s : State} (h : s.HaltedWithoutQuit) : s.endTick.HaltedWithoutQuit := by
  have hhead : .quit ∉ s.events.headD [] := by
    cases hl : s.events with
    | nil => exact List.not_mem_nil
    | cons es rest => exact h.events es (by rw [hl]; exact List.mem_cons_self)
  obtain ⟨hquit, hrun⟩ := State.endTick_of_noQuit h.quit hhead
  exact {
    ready := h.ready.endTick
    halted := hrun.trans h.halted
    quit := hquit
    events := fun es hes => h.events es (List.mem_of_mem_tail (s.endTick_events ▸ hes)) }

/-- Its timers go down by one a tick, floor 0 (R256). -/
theorem State.HaltedWithoutQuit.run {s : State} (h : s.HaltedWithoutQuit) (k : Nat) :
    ∃ t, RunsTo k s t ∧ t.run = .halted ∧ t.dt.toNat = s.dt.toNat - k ∧ t.st.toNat = s.st.toNat - k := by
  induction k generalizing s with
  | zero => exact ⟨s, RunsTo_zero.2 rfl, h.halted, rfl, rfl⟩
  | succ k ih =>
    obtain ⟨t, ht, hrun, hdt, hst⟩ := ih h.endTick
    have hstep : step s = .next s.endTick := step_of_endingTick ⟨h.ready, .inr h.halted⟩
    rw [s.endTick_dt] at hdt
    rw [s.endTick_st] at hst
    exact ⟨t, RunsTo_succ.2 ⟨_, hstep, ht⟩, hrun, by omega, by omega⟩

end Sys2Proof.Machine

open Sys2Proof.Machine

/-- Settles O16, by the state the end of a tick leaves. -/
theorem endOfTickCueTimersAndPresent : Obligations.EndOfTickCueTimersAndPresent := by
  intro s h
  refine ⟨_, step_of_endingTick h, s.endTick_dt, s.endTick_st, s.endTick_out, s.endTick_events, ?_⟩
  rw [s.endTick_eq]
  exact ⟨rfl, rfl, rfl⟩

/-- Settles O17, by induction on the ticks. -/
theorem haltedTimersReachZeroAndStay : Obligations.HaltedTimersReachZeroAndStay := fun _ k hready hrun hquit hevents =>
  State.HaltedWithoutQuit.run ⟨hready, hrun, hquit, hevents⟩ k

/-- Settles O18: the step leaves the key state of the tick's events. -/
theorem polledKeyFollowsItsLastEvent : Obligations.PolledKeyFollowsItsLastEvent := by
  intro s k h
  refine ⟨_, step_of_endingTick h, ?_⟩
  rw [s.endTick_pressed]
  exact s.hostEvents_pressed (s.events.headD []) k

/-- Settles O19: the poll of `es` and then `e` is the event `e` on what the poll of `es` leaves, case by case. -/
theorem pollAppliesTheEventsInOrder : Obligations.PollAppliesTheEventsInOrder := by
  refine ⟨fun s es e rest => ?_, fun s h => ?_⟩
  · simp only [State.poll_of_events, List.foldl_concat, List.foldl_nil, and_self, and_true]
    cases e with
    | keyDown k =>
      exact ⟨State.hostEvent_keyDown_pressed _ k, State.hostEvent_keyDown_latch _ k,
        State.hostEvent_keyDown_quitPending _ k⟩
    | keyUp k => exact ⟨rfl, rfl, rfl⟩
    | quit => exact ⟨rfl, rfl, rfl⟩
  · refine ⟨_, step_of_endingTick h, s.endTick_pressed, s.endTick_latch, ?_⟩
    rw [s.endTick_eq]
    rfl

/-- Settles O20: every step of a core whose program has ended keeps the result and that it has ended. -/
theorem haltedProgramResultNeverChanges : Obligations.HaltedProgramResultNeverChanges := by
  intro s t k hready hrun h
  obtain ⟨⟨-, hended⟩, hv, hi, hpc, hstack, hmem, hdisplay⟩ :=
    h.keeps (P := fun u => u.ended ∧ SameResult s u) (fun _ _ hu => hu.1.step_keeps hu.2)
      ⟨⟨hready, .inl hrun⟩, .refl s⟩
  exact ⟨hended, hv, hi, hpc, hstack, hmem, hdisplay⟩

/-- Settles O21: the tick's poll leaves the quit pending, and a stopped core never changes. -/
theorem quitStopsTheCoreAtTheEndOfItsTick : Obligations.QuitStopsTheCoreAtTheEndOfItsTick := by
  refine fun s h => ⟨fun hquit => ?_, fun hquit hnone => ?_⟩
  · have hpending : s.endTick.quitPending = true := by rw [s.endTick_quitPending, decide_eq_true hquit, Bool.or_true]
    have hrun : s.endTick.run = .stopped := by rw [s.endTick_run, hpending, if_pos rfl]
    exact ⟨_, step_of_endingTick h, hrun, RunsTo_of_fixed (step_of_ended h.1.endTick (.inr hrun))⟩
  · exact ⟨_, step_of_endingTick h, (State.endTick_of_noQuit hnone hquit).2⟩

end

section
/-! The batch: each of its steps counts one instruction while the core runs on, and none touches a timer or the key input but
the instruction that says so (R252 to R254). -/

namespace Sys2Proof.Machine

section
variable {s t : State}

/-- A step of the batch ends the run, by the halt or a fault of the step, or runs an instruction (R111, R112, R115). -/
theorem State.dispatching.step_cases (h : s.dispatching) (hs : step s = .next t) :
    (∃ r, r ≠ .running ∧ t = { s with run := r }) ∨
      (∃ i u, decode s.fetchWord = .ok i ∧ exec i s = .next u ∧ t = u.countInstr) := by
  rw [step_of_dispatching h] at hs
  obtain ⟨-, rfl⟩ | ⟨-, -, rfl⟩ | ⟨-, e, -, rfl⟩ | ⟨-, i, u, hi, hu, rfl⟩ := dispatcherStep_cases hs
  · exact .inl ⟨.halted, nofun, rfl⟩
  · exact .inl ⟨.faulted _, nofun, rfl⟩
  · exact .inl ⟨.faulted _, nofun, rfl⟩
  · exact .inr ⟨i, u, hi, hu, rfl⟩

/-! ### The count (R252) -/

@[simp] theorem State.countInstr_run (s : State) : s.countInstr.run = s.run := by
  obtain ⟨k, -, hk⟩ := s.countInstr_eq
  rw [hk]

@[simp] theorem State.countInstr_romPort (s : State) : s.countInstr.romPort = s.romPort := by
  obtain ⟨k, -, hk⟩ := s.countInstr_eq
  rw [hk]

/-- A step of the batch leaves the core ready, and counts one if the core runs on. -/
theorem State.dispatching.step_counts (h : s.dispatching) (hs : step s = .next t) :
    t.ready ∧ (t.run = .running → t.count = s.count + 1) := by
  have hp : t.params = s.params := step_params hs
  obtain ⟨r, hr, rfl⟩ | ⟨i, u, -, hu, rfl⟩ := h.step_cases hs
  · exact ⟨h.1, fun hrun => absurd hrun hr⟩
  · obtain ⟨-, hfields⟩ := exec_frame hu
    refine ⟨⟨hp ▸ h.1.1, ?_⟩, fun hrun => ?_⟩
    · rw [u.countInstr_romPort, hfields.romPort, h.1.2]
    · rw [u.countInstr_run] at hrun
      rw [State.countInstr_of_running hrun, hfields.count]

/-- A batch with room for `n` more instructions ends within `n` steps. -/
theorem State.dispatching.batch_ends {n : Nat} (h : s.dispatching) (hn : s.params.batchSize - s.count = n) :
    ∃ k t, k ≤ n ∧ RunsTo k s t ∧ t.inBatch = false ∧ ∀ j, j < k → ∃ u, RunsTo j s u ∧ u.dispatching := by
  induction n generalizing s with
  | zero =>
    have hroom : s.count < s.params.batchSize := (State.inBatch_iff.1 h.2).2.1
    omega
  | succ n ih =>
    obtain ⟨u, hu⟩ := h.1.step_total
    obtain ⟨hready, hcount⟩ := h.step_counts hu
    have hfirst : RunsTo 0 s s ∧ s.dispatching := ⟨RunsTo_zero.2 rfl, h⟩
    cases hb : u.inBatch with
    | false =>
      exact ⟨1, u, Nat.succ_pos n, RunsTo_succ.2 ⟨u, hu, RunsTo_zero.2 rfl⟩, hb, fun j hj => by
        rw [Nat.lt_one_iff.1 hj]
        exact ⟨s, hfirst⟩⟩
    | true =>
      have hroom : u.params.batchSize - u.count = n := by
        rw [step_params hu, hcount (State.inBatch_iff.1 hb).1]
        omega
      obtain ⟨k, t, hk, ht, hend, hall⟩ := ih ⟨hready, hb⟩ hroom
      refine ⟨k + 1, t, Nat.succ_le_succ hk, RunsTo_succ.2 ⟨u, hu, ht⟩, hend, fun j hj => ?_⟩
      cases j with
      | zero => exact ⟨s, hfirst⟩
      | succ j =>
        obtain ⟨v, hv, hd⟩ := hall j (Nat.lt_of_succ_lt_succ hj)
        exact ⟨v, RunsTo_succ.2 ⟨u, hu, hv⟩, hd⟩

/-- After `k` steps, all of one batch, of which none ended the run, `k` more instructions have been counted. -/
theorem State.ready.batch_count {k : Nat} (h : s.ready) (hroom : s.count ≤ s.params.batchSize) (hk : RunsTo k s t)
    (hall : ∀ j u, j < k → RunsTo j s u → u.inBatch = true) (hrun : t.run = .running) :
    t.ready ∧ t.params = s.params ∧ t.count = s.count + k ∧ t.count ≤ t.params.batchSize := by
  induction k generalizing t with
  | zero =>
    rw [RunsTo_zero.1 hk]
    exact ⟨h, rfl, rfl, hroom⟩
  | succ k ih =>
    obtain ⟨u, hu, ht⟩ := RunsTo_succ_last.1 hk
    have hb : u.inBatch = true := hall k u (Nat.lt_succ_self k) hu
    obtain ⟨hurun, hlt, -⟩ := State.inBatch_iff.1 hb
    obtain ⟨hready, hp, hcount, -⟩ := ih hu (fun j v hj => hall j v (Nat.lt_succ_of_lt hj)) hurun
    obtain ⟨hready', hcount'⟩ := State.dispatching.step_counts ⟨hready, hb⟩ ht
    have hp' : t.params = u.params := step_params ht
    specialize hcount' hrun
    exact ⟨hready', hp'.trans hp, by omega, by rw [hp']; omega⟩

/-- A batch that is over in a core that runs and has not suspended has used up its instructions (R252, R253). -/
theorem State.batchSize_le_count (hb : s.inBatch = false) (hrun : s.run = .running) (hs : s.suspend = false) :
    s.params.batchSize ≤ s.count := by
  by_contra hlt
  cases hb.symm.trans (State.inBatch_iff.2 ⟨hrun, Nat.lt_of_not_le hlt, hs⟩)

/-! ### The timers and the key input (R254) -/

section
variable {i : Instr}

/-- The one write of the latch empties it (R224). -/
theorem exec_latch (h : exec i s = .next t) : t.latch = s.latch ∨ (t.latch = none ∧ ∃ x, i = .ldVxK x) := by
  cases i with
  | ldVxK x =>
    cases hk : s.latch with
    | none =>
      rw [exec_ldVxK_of_empty hk] at h
      cases h
      exact .inl hk
    | some k =>
      rw [exec_ldVxK_of_latched hk] at h
      cases h
      exact .inr ⟨rfl, x, rfl⟩
  | _ => exact .inl ((exec_frame h).2.latch (by simp [writesFields]))

theorem exec_dt (h : exec i s = .next t) : t.dt = s.dt ∨ ∃ x, i = .ldDTVx x := by
  cases i with
  | ldDTVx x => exact .inr ⟨x, rfl⟩
  | _ => exact .inl ((exec_frame h).2.dt (by simp [writesFields]))

theorem exec_st (h : exec i s = .next t) : t.st = s.st ∨ ∃ x, i = .ldSTVx x := by
  cases i with
  | ldSTVx x => exact .inr ⟨x, rfl⟩
  | _ => exact .inl ((exec_frame h).2.st (by simp [writesFields]))

end

end

end Sys2Proof.Machine

open Sys2Proof Sys2Proof.Machine

/-- Settles O22, by induction on the room left in the batch. -/
theorem batchEndsWithinBatchSize : Obligations.BatchEndsWithinBatchSize := fun _ h => h.batch_ends rfl

/-- Settles O23: the steps of the batch are what its counter has counted, and the counter stands at `BATCH_SIZE`. -/
theorem uninterruptedBatchRunsExactlyBatchSize : Obligations.UninterruptedBatchRunsExactlyBatchSize := by
  intro s t k hready _ hzero _ hk hall hend hrun hsuspend
  have hroom : s.count ≤ s.params.batchSize := hzero ▸ Nat.zero_le _
  obtain ⟨-, hp, hcount, hle⟩ := hready.batch_count hroom hk hall hrun
  have hfull : t.params.batchSize ≤ t.count := State.batchSize_le_count hend hrun hsuspend
  rw [hp] at hle hfull
  omega

/-- Settles O24: a step that ends the run changes `run` alone, and an instruction writes only what its frame lets it. -/
theorem timersAndInputChangeOnlyBetweenBatches : Obligations.TimersAndInputChangeOnlyBetweenBatches := by
  intro s t hd hs
  obtain ⟨r, -, rfl⟩ | ⟨i, u, hi, hu, rfl⟩ := hd.step_cases hs
  · exact ⟨rfl, rfl, rfl, .inl rfl, .inl rfl, .inl rfl⟩
  · obtain ⟨-, hfields⟩ := exec_frame hu
    obtain ⟨k, -, hk⟩ := u.countInstr_eq
    rw [hk, hi]
    simp only [Except.ok.injEq]
    exact ⟨hfields.pressed, hfields.events, hfields.quitPending, exec_latch hu, exec_dt hu, exec_st hu⟩

/-- Settles O28: the check that fails raises the fault, and an instruction whose check passes completes with `run` as it
was. -/
theorem instructionsFaultExactlyOnTheirOwnCheck : Obligations.InstructionsFaultExactlyOnTheirOwnCheck := by
  refine fun i s => ⟨fun _ _ hc => exec_of_ownCheck hc, fun hc => ?_⟩
  obtain ⟨t, ht, hcomp⟩ := exec_completes hc
  exact ⟨t, ht, hcomp.run⟩

end

section
/-! Construction and the ROM load: what the reset core holds, what a load leaves, and that a core loads once (R290 to R292,
D41). -/

namespace Sys2Proof.Machine

/-! ### The constructed core (R290) -/

/-- Past the font an unlisted address reads as zero (R290). -/
theorem resetByte_of_length_le {font : List Byte} {a : Nat} (h : font.length ≤ a) : resetByte font a = 0 := by
  rw [resetByte, List.getD_eq_default _ _ h]

theorem defaultFont_length : defaultFont.length = fontLength := rfl

theorem State.reset_readByte (a : Nat) :
    State.reset.readByte a = if a < fontLength then defaultFont.getD a 0 else 0 := by
  show resetByte defaultFont a = _
  split
  · rfl
  · next h => exact resetByte_of_length_le (defaultFont_length.trans_le (Nat.le_of_not_lt h))

theorem State.reset_reg (r : Reg) : State.reset.reg r = 0 := Vector.getElem_replicate r.isLt

theorem State.reset_pressed (k : Key) : State.reset.pressed[k] = false := Vector.getElem_replicate k.isLt

theorem State.reset_cell (x y : Nat) : State.reset.display.cell x y = false := Display.cell_cleared x y

theorem State.reset_inv : State.reset.Inv where
  memory := State.reset_memory_wf
  stackDepth := Nat.zero_le _
  stackEntries := nofun
  pcBound := by decide
  batch := Nat.zero_le _
  haltedOutside := nofun
  faultPrecise := nofun

/-! ### The ROM load (R291, R292, D41) -/

section
variable {s : State}

/-- Byte `k` of a range stored from `a` is read back at `a + k` (R63, R70). -/
theorem State.readByte_add_storeBytes {a k : Nat} {bytes : List Byte}
    (hmem : Memory.wf s.params.font s.params.memSize s.mem = true) (hfits : a + bytes.length ≤ s.params.memSize)
    (hk : k < bytes.length) : (s.storeBytes a bytes).readByte (a + k) = bytes.getD k 0 := by
  rw [State.readByte_storeBytes hmem hfits, if_pos ⟨Nat.le_add_right a k, Nat.add_lt_add_left hk a⟩,
    Nat.add_sub_cancel_left]

/-- Storing a range changes no byte outside it (R62, R73). -/
theorem memUnchangedOutside_storeBytes {a : Nat} {bytes : List Byte}
    (hmem : Memory.wf s.params.font s.params.memSize s.mem = true) (hfits : a + bytes.length ≤ s.params.memSize) :
    MemUnchangedOutside a bytes.length s (s.storeBytes a bytes) := by
  intro b hb
  rw [State.readByte_storeBytes hmem hfits, if_neg (by omega)]

/-- An unloaded core takes the ROM it is offered (R291). -/
theorem step_of_offeredRom {rom : List Byte} (hwf : s.params.wf = true) (hrun : s.run = .unloaded)
    (hrom : s.romPort = some rom) : step s = .next (s.loadRom rom) := by
  rw [step_of_unloaded hwf hrun, boot_of_rom hrom]

/-- A core that has had its load refuses another, whatever its run state (D41). -/
theorem step_of_secondRom {rom : List Byte} (hwf : s.params.wf = true) (hrom : s.romPort = some rom)
    (hrun : s.run ≠ .unloaded) : step s = .refused .romLoadRefused := by
  cases hr : s.run with
  | unloaded => exact absurd hr hrun
  | running | halted | loadFailed | faulted | stopped => simp [step, coreStep, hwf, hrom, hr]

end

end Sys2Proof.Machine

open Sys2Proof Sys2Proof.Machine

/-- Settles O14: the step is the load, which stores the ROM in the range from `0x200` and sets `run` and the port. -/
theorem romThatFitsIsLoadedAndRuns : Obligations.RomThatFitsIsLoadedAndRuns := by
  intro s rom hwf hmem hrun hrom hlen
  have hfits : programOrigin + rom.length ≤ s.params.memSize := Nat.add_le_of_le_sub' (Config.origin_le_memSize hwf) hlen
  refine ⟨_, step_of_offeredRom hwf hrun hrom, ?_⟩
  rw [State.loadRom_of_fits hlen]
  exact ⟨rfl, fun k hk => State.readByte_add_storeBytes hmem hfits hk, memUnchangedOutside_storeBytes hmem hfits, rfl⟩

/-- Settles O15: the step is the failed load, and the core it leaves is an ended one, which no step changes. -/
theorem romTooLargeFailsTheLoad : Obligations.RomTooLargeFailsTheLoad := by
  intro s rom hwf hrun hrom hlen t
  have hload : s.loadRom rom = t := State.loadRom_of_tooLarge (Nat.not_le_of_lt hlen)
  have hready : t.ready := ⟨hwf, rfl⟩
  have hfailed : t.failed := .inr ⟨_, rfl⟩
  exact ⟨by rw [step_of_offeredRom hwf hrun hrom, hload], RunsTo_of_fixed (step_of_ended hready (.inl hfailed))⟩

/-- Settles O12: each run state but `Unloaded` refuses the ROM. -/
theorem secondRomLoadIsRefused : Obligations.SecondRomLoadIsRefused := fun _ _ => step_of_secondRom

/-- Settles O13: the font and the zeros after it are what an unlisted address reads as; the other values stand in
`State.reset`. -/
theorem constructionLeavesTheResetValues : Obligations.ConstructionLeavesTheResetValues :=
  ⟨State.reset_readByte, rfl, State.reset_reg, rfl, rfl, rfl, rfl, State.reset_cell, State.reset_pressed, rfl, rfl, rfl, rfl,
    rfl, rfl, rfl⟩

/-- Settles O25: nothing is on the stack, in memory's list or counted, and the core is neither halted nor faulted. -/
theorem constructedCoreMeetsTheInvariant : Obligations.ConstructedCoreMeetsTheInvariant := ⟨rfl, State.reset_inv⟩

end
